-- ==== Sys2Proof/Word.lean ====
section
/-! DEFINITION. The word types of the register space (20_memory.md R61). -/

namespace Sys2Proof

/-- A register, a command word or a bus datum: 32 bits, all unsigned (00_scope.md R6, 20_memory.md R61). -/
abbrev Word := BitVec 32

/-- One byte of the little-endian byte view of a register (20_memory.md R61). -/
abbrev Byte := BitVec 8

end Sys2Proof
end

