-- ==== Sys2Proof/Syntax.lean ====
section
/-! DEFINITION. The nine commands (30_encoding.md R83), one constructor per row of the opcode table.
Every field has exactly the width of R81, so a term of `Instr` is exactly a word that matches a row. -/

namespace Sys2Proof

/-- PLL index p: 0 the system PLL, 1 the auxiliary PLL (42_pll_engine.md R120). -/
inductive PllId where
  | sys
  | aux
  deriving DecidableEq, Repr

/-- A main-stage input of a two-stage domain: 0 the reference path, 1 the auxiliary path
(10_state.md R31, R32; the field MAIN of 30_encoding.md R82). -/
inductive Path where
  | reference
  | auxiliary
  deriving DecidableEq, Repr

/-- The commands of 30_encoding.md R83. Fields are raw where an encodable value may be illegal
(R82, R84): such a command decodes and its own validation rejects it. -/
inductive Instr where
  /-- NOP, 46_bringup_sequencer.md R185. -/
  | nop
  /-- RST_HOLD, 40_reset_controller.md R101. -/
  | rstHold
  /-- RST_RELEASE, 40_reset_controller.md R102. -/
  | rstRelease
  /-- OSC_START, 41_oscillator.md R111. -/
  | oscStart
  /-- PLL_CFG, 42_pll_engine.md R124. -/
  | pllCfg (pll : PllId) (refdiv : BitVec 6) (pd1 pd2 : BitVec 3)
  /-- MUX_SWITCH, 43_clock_mux.md R143. -/
  | muxSwitch (dom : BitVec 3) (main : Path) (auxsrc : BitVec 3)
  /-- DIV_APPLY, 44_clock_divider.md R152. -/
  | divApply (dom : BitVec 3) (main : Path) (auxsrc : BitVec 3)
  /-- FC_MEASURE, 45_frequency_counter.md R172. -/
  | fcMeasure (src : BitVec 8)
  /-- BRINGUP, 46_bringup_sequencer.md R187; `verify` is the field V. -/
  | bringup (verify : Bool)
  deriving DecidableEq, Repr

end Sys2Proof
end

