-- ==== Sys2Proof/WellFormed.lean ====
section
/-! DEFINITION. Which commands carry only legal field values (30_encoding.md R82). An ill-formed command
still decodes (R84): its own validation rejects it before any register write. -/

namespace Sys2Proof

/-- Legality of the pair (MAIN, AUXSRC) for a two-stage domain: 43_clock_mux.md R141 (b). -/
def legalTwoStageSource (main : Path) (auxsrc : BitVec 3) : Bool :=
  match main with
  | .reference => auxsrc == 0
  | .auxiliary => decide (auxsrc.toNat ≤ 2)

/-- Legality of the pair (MAIN, AUXSRC) for a gated domain: 44_clock_divider.md R151 (b). -/
def legalGatedSource (main : Path) (auxsrc : BitVec 3) : Bool :=
  match main with
  | .reference => false
  | .auxiliary => decide (auxsrc.toNat ≤ 3)

/-- The legal values of R82, with the domain kinds of 10_state.md R31. -/
def Instr.wellFormed : Instr → Bool
  | .nop => true
  | .rstHold => true
  | .rstRelease => true
  | .oscStart => true
  | .pllCfg _ refdiv pd1 pd2 => refdiv != 0 && pd1 != 0 && pd2 != 0
  | .muxSwitch dom main auxsrc => decide (dom.toNat ≤ 1) && legalTwoStageSource main auxsrc
  | .divApply dom main auxsrc =>
    if dom.toNat ≤ 1 then legalTwoStageSource main auxsrc
    else decide (dom.toNat ≤ 5) && legalGatedSource main auxsrc
  | .fcMeasure src => decide (1 ≤ src.toNat) && decide (src.toNat ≤ 10)
  | .bringup _ => true

end Sys2Proof
end

