-- ==== Sys2Proof/Decode.lean ====
section
/-! DEFINITION. Decoding and encoding of command words (30_encoding.md R80 to R84). -/

namespace Sys2Proof

/-- Why a word is an illegal command (30_encoding.md R84). -/
inductive Illegal where
  /-- The opcode is none of the nine of R83. -/
  | unassignedOpcode
  /-- The opcode is assigned and a must-be-zero bit of its format is set. -/
  | mustBeZeroBitSet
  deriving DecidableEq, Repr

/-- Bits 31:24, the opcode OPC of every format (R80). -/
def opcodeOf (w : Word) : BitVec 8 := w.extractLsb' 24 8

/-- The PLL index a field value names (R82). -/
def PllId.ofBit (b : Bool) : PllId := if b then .aux else .sys

/-- The field value of a PLL index (R82). -/
def PllId.bit : PllId → BitVec 1
  | .sys => 0#1
  | .aux => 1#1

/-- The path a MAIN bit names (R82). -/
def Path.ofBit (b : Bool) : Path := if b then .auxiliary else .reference

/-- The MAIN bit of a path (R82). -/
def Path.bit : Path → BitVec 1
  | .reference => 0#1
  | .auxiliary => 1#1

/-- One row of the opcode table of R83 and the instruction its fields (R81) make. -/
structure Row where
  mask : Word
  pat : Word
  build : Word → Instr

/-- Field PLL, bit 0 of format P (R81). -/
def fieldPll (w : Word) : PllId := PllId.ofBit (w.getLsbD 0)
/-- Field REFDIV, bits 9:4 of format P. -/
def fieldRefdiv (w : Word) : BitVec 6 := w.extractLsb' 4 6
/-- Field PD1, bits 14:12 of format P. -/
def fieldPd1 (w : Word) : BitVec 3 := w.extractLsb' 12 3
/-- Field PD2, bits 18:16 of format P. -/
def fieldPd2 (w : Word) : BitVec 3 := w.extractLsb' 16 3
/-- Field DOM, bits 2:0 of format C. -/
def fieldDom (w : Word) : BitVec 3 := w.extractLsb' 0 3
/-- Field MAIN, bit 4 of format C. -/
def fieldMain (w : Word) : Path := Path.ofBit (w.getLsbD 4)
/-- Field AUXSRC, bits 10:8 of format C. -/
def fieldAuxsrc (w : Word) : BitVec 3 := w.extractLsb' 8 3
/-- Field SRC, bits 7:0 of format F. -/
def fieldSrc (w : Word) : BitVec 8 := w.extractLsb' 0 8
/-- Field V, bit 0 of format B. -/
def fieldV (w : Word) : Bool := w.getLsbD 0

/-- The opcode table of R83, row by row. -/
def rows : List Row :=
  [ ⟨0xFFFFFFFF#32, 0x00000000#32, fun _ => .nop⟩,
    ⟨0xFFFFFFFF#32, 0x10000000#32, fun _ => .rstHold⟩,
    ⟨0xFFFFFFFF#32, 0x11000000#32, fun _ => .rstRelease⟩,
    ⟨0xFFFFFFFF#32, 0x20000000#32, fun _ => .oscStart⟩,
    ⟨0xFFF88C0E#32, 0x30000000#32, fun w => .pllCfg (fieldPll w) (fieldRefdiv w) (fieldPd1 w) (fieldPd2 w)⟩,
    ⟨0xFFFFF8E8#32, 0x40000000#32, fun w => .muxSwitch (fieldDom w) (fieldMain w) (fieldAuxsrc w)⟩,
    ⟨0xFFFFF8E8#32, 0x50000000#32, fun w => .divApply (fieldDom w) (fieldMain w) (fieldAuxsrc w)⟩,
    ⟨0xFFFFFF00#32, 0x60000000#32, fun w => .fcMeasure (fieldSrc w)⟩,
    ⟨0xFFFFFFFE#32, 0x70000000#32, fun w => .bringup (fieldV w)⟩ ]

/-- "A word w is the command of a row iff (w AND mask) = match" (R83). -/
def Row.accepts (r : Row) (w : Word) : Bool := w &&& r.mask == r.pat

/-- Decoding: the command of the row that matches, or the reason R84 gives for there being none. -/
def decode (w : Word) : Except Illegal Instr :=
  match rows.find? (fun r => r.accepts w) with
  | some r => .ok (r.build w)
  | none =>
    if rows.any (fun r => opcodeOf r.pat == opcodeOf w) then .error .mustBeZeroBitSet
    else .error .unassignedOpcode

/-- The opcode of a command (R83). -/
def opcode : Instr → BitVec 8
  | .nop => 0x00#8
  | .rstHold => 0x10#8
  | .rstRelease => 0x11#8
  | .oscStart => 0x20#8
  | .pllCfg _ _ _ _ => 0x30#8
  | .muxSwitch _ _ _ => 0x40#8
  | .divApply _ _ _ => 0x50#8
  | .fcMeasure _ => 0x60#8
  | .bringup _ => 0x70#8

/-- The word of format Z: OPC and 24 zero bits (R81). -/
def formatZ (opc : BitVec 8) : Word := opc ++ 0#24

/-- The word of format P (R81). -/
def formatP (opc : BitVec 8) (p : PllId) (refdiv : BitVec 6) (pd1 pd2 : BitVec 3) : Word :=
  opc ++ 0#5 ++ pd2 ++ 0#1 ++ pd1 ++ 0#2 ++ refdiv ++ 0#3 ++ p.bit

/-- The word of format C (R81). -/
def formatC (opc : BitVec 8) (dom : BitVec 3) (main : Path) (auxsrc : BitVec 3) : Word :=
  opc ++ 0#13 ++ auxsrc ++ 0#3 ++ main.bit ++ 0#1 ++ dom

/-- The word of format F (R81). -/
def formatF (opc : BitVec 8) (src : BitVec 8) : Word := opc ++ 0#16 ++ src

/-- The word of format B (R81). -/
def formatB (opc : BitVec 8) (v : Bool) : Word := opc ++ 0#23 ++ BitVec.ofBool v

/-- The command word of an instruction (R81, R83). -/
def encode (i : Instr) : Word :=
  match i with
  | .nop => formatZ 0x00#8
  | .rstHold => formatZ 0x10#8
  | .rstRelease => formatZ 0x11#8
  | .oscStart => formatZ 0x20#8
  | .pllCfg p refdiv pd1 pd2 => formatP 0x30#8 p refdiv pd1 pd2
  | .muxSwitch dom main auxsrc => formatC 0x40#8 dom main auxsrc
  | .divApply dom main auxsrc => formatC 0x50#8 dom main auxsrc
  | .fcMeasure src => formatF 0x60#8 src
  | .bringup v => formatB 0x70#8 v

/-- The word whose bits the opcode table numbers as `w`, cut to the `nbits` bits the row gives. -/
def tableWord (nbits w : Nat) : Word := BitVec.ofNat 32 (w % 2 ^ nbits)

/-- What `decode` reads from a table row's word: a command is one 32-bit word (R80), so the word itself
is what the decoder is given. -/
def decodeTableWord (nbits w : Nat) : Option Instr :=
  match decode (tableWord nbits w) with
  | .ok i => some i
  | .error _ => none

end Sys2Proof
end

