-- ==== Sys2Proof/Config.lean ====
section
/-! DEFINITION. The implementation parameters of 00_scope.md R5: the constants the source fixes, the
record of the others, and the one free value of the model. State holds one such record, which no step changes; a statement about every state
therefore holds for every value of every parameter (log entry 3). -/

namespace Sys2Proof.Config

/-- `FBDIV_MIN`, fixed by the source (00_scope.md R5). -/
def fbdivMin : Nat := 16
/-- `FBDIV_MAX`, fixed by the source (00_scope.md R5). -/
def fbdivMax : Nat := 320
/-- `LATE_SET`: bits 0 to 6, fixed by the source (00_scope.md R5, 10_state.md R41). -/
def lateSet : Word := 0x0000007F#32

/-- What DOM_HZ[d] holds after a DIV_APPLY whose achieved frequency `hz` does not fit its 32 bits (2^32 or
more), which the spec does not say (10_state.md R20, 44_clock_divider.md R156): a free value. DESIGN CHOICE,
safe: log entry 27. -/
opaque freeDomHz (hz : Nat) : Word

/-- A PLL setting of the plan (46_bringup_sequencer.md R186). -/
structure PllPlan where
  refdiv : BitVec 6
  targetVco : Word
  pd1 : BitVec 3
  pd2 : BitVec 3
  deriving DecidableEq, Repr

/-- A domain setting of the plan (46_bringup_sequencer.md R186). -/
structure DomPlan where
  main : Path
  auxsrc : BitVec 3
  destHz : Word
  deriving DecidableEq, Repr

/-- `PLAN`, the record BRINGUP executes (46_bringup_sequencer.md R186). -/
structure Plan where
  xoscHz : Word
  pllSys : PllPlan
  pllAux : PllPlan
  domRef : DomPlan
  domSys : DomPlan
  domUsb : DomPlan
  domAdc : DomPlan
  domRtc : DomPlan
  domPeri : DomPlan
  deriving DecidableEq, Repr

/-- One point of the open function `settle_cycles` (00_scope.md R5): its value `n` at `(fSys, fDom)`. -/
structure SettlePoint where
  fSys : Nat
  fDom : Nat
  n : Nat
  deriving DecidableEq, Repr

/-- When OSC_START latches OSC_FREQ. The spec gives both and settles neither: STEP 3, before the Wait
(41_oscillator.md R111), and the step of Complete (70_reset_and_hazards.md R249). DESIGN CHOICE: the model
leaves it to a parameter (log entry 28). -/
inductive OscFreqLatch where
  | beforeWait
  | atComplete
  deriving DecidableEq, Repr

/-- The implementation parameters of 00_scope.md R5, and `oscFreqLatch` (log entry 28). `settlePoints` gives the open function
`settle_cycles` at the points where it differs from the suggested one (log entry 5). -/
structure Params where
  cbeBase : Word
  xtalHz : Nat
  bootHz : Nat
  oscMinHz : Nat
  oscMaxHz : Nat
  vcoMinHz : Nat
  vcoMaxHz : Nat
  refdivMax : Nat
  postdivMin : Nat
  postdivMax : Nat
  periphAll : Word
  waitLimitReset : Word
  fcIntervalFixed : BitVec 4
  settlePoints : List SettlePoint
  oscFreqLatch : OscFreqLatch
  plan : Plan
  deriving DecidableEq, Repr

/-- The default plan of 46_bringup_sequencer.md R186. -/
def defaultPlan : Plan :=
  { xoscHz := 12000000#32,
    pllSys := ⟨1#6, 1500000000#32, 6#3, 2#3⟩,
    pllAux := ⟨1#6, 480000000#32, 5#3, 2#3⟩,
    domRef := ⟨.auxiliary, 0#3, 12000000#32⟩,
    domSys := ⟨.auxiliary, 1#3, 125000000#32⟩,
    domUsb := ⟨.auxiliary, 2#3, 48000000#32⟩,
    domAdc := ⟨.auxiliary, 2#3, 48000000#32⟩,
    domRtc := ⟨.auxiliary, 2#3, 46875#32⟩,
    domPeri := ⟨.auxiliary, 3#3, 125000000#32⟩ }

/-- The defaults of 00_scope.md R5; where R5 gives none, the test parameter set TP of 95_test_vectors.md
(`BOOT_HZ`, the VCO band, `WAIT_LIMIT_RESET`) and 0 for `CBE_BASE`; OSC_FREQ is latched where R111
lists it. DESIGN CHOICE, unsafe for a claim about `State.reset` alone: log entries 3 and 28. -/
def defaultParams : Params :=
  { cbeBase := 0#32,
    xtalHz := 12000000,
    bootHz := 6000000,
    oscMinHz := 1000000,
    oscMaxHz := 15000000,
    vcoMinHz := 400000000,
    vcoMaxHz := 1600000000,
    refdivMax := 63,
    postdivMin := 1,
    postdivMax := 7,
    periphAll := 0x0000007F#32,
    waitLimitReset := 0#32,
    fcIntervalFixed := 10#4,
    settlePoints := [],
    oscFreqLatch := .beforeWait,
    plan := defaultPlan }

/-- What 00_scope.md R5 requires of the parameters: the base is a multiple of 0x1000, the two true
frequencies are positive, `PERIPH_ALL` contains bits 0 to 6, and the decided ranges stay inside their fields
and exclude 0. -/
def Params.ok (p : Params) : Bool :=
  decide (p.cbeBase.toNat % 0x1000 = 0) && decide (0 < p.xtalHz) && decide (0 < p.bootHz) &&
  p.periphAll &&& lateSet == lateSet && decide (p.refdivMax ≤ 63) && decide (1 ≤ p.postdivMin) &&
  decide (p.postdivMax ≤ 7)

end Sys2Proof.Config
end

