-- ==== Sys2Proof/Machine/State.lean ====
section
/-! DEFINITION. The state of the CBE as plain data (10_state.md R10 to R43), the moves of the three agents,
the reasons a step can stop, and the state after power-on reset (10_state.md R48). -/

namespace Sys2Proof.Machine

/-- The six clock domains (10_state.md R31): `ref` and `sys` are two-stage, the other four gated. -/
inductive Dom where
  | ref
  | sys
  | usb
  | adc
  | rtc
  | peri
  deriving DecidableEq, Repr

/-- The bring-up state FSM (10_state.md R12); the reserved codes 9 to 14 have no constructor, since no
state reaches them. -/
inductive Fsm where
  | powerOnReset
  | peripheralsHeld
  | oscillatorStable
  | pllsLocked
  | referenceClockRouted
  | systemClockRouted
  | derivedClocksConfigured
  | allPeripheralsReleased
  | ready
  | failed
  deriving DecidableEq, Repr

/-- The causes of 60_exceptions.md R200; `none` is the cleared ERR. -/
inductive Cause where
  | none
  | fbdivRange
  | destGtSrc
  | vcoBand
  | oscRange
  | pllParam
  | divZero
  | divByZero
  | divOverflow
  | muxSrcUnconfigured
  | resetDep
  | pllInUse
  | fcParam
  | badOperand
  | locked
  | timeoutResetDone
  | timeoutOscStable
  | timeoutPllLock
  | timeoutMuxSelected
  | timeoutFcIdle
  | timeoutFcDone
  | illegalCommand
  deriving DecidableEq, Repr

/-- The six Waits (60_exceptions.md R203), wait ids 0 to 5 in this order. -/
inductive WaitId where
  | resetDone
  | oscStable
  | pllLock
  | muxSelected
  | fcIdle
  | fcDone
  deriving DecidableEq, Repr

/-- The registers of the register map (10_state.md R10). -/
inductive Reg where
  | cmd
  | status
  | err
  | errsnap
  | waitLimit
  | pollcnt
  | domValid
  | x (i : Fin 8)
  | domHz (d : Dom)
  | domMeasKhz (d : Dom)
  | oscFreq
  | pllVcoHz (p : PllId)
  | pllOutHz (p : PllId)
  | rstCtrl
  | rstDone
  | oscCtrl
  | oscStatus
  | oscStartup
  | pllCs (p : PllId)
  | pllPwr (p : PllId)
  | pllFbdiv (p : PllId)
  | pllPrim (p : PllId)
  | clkCtrl (d : Dom)
  | clkDiv (d : Dom)
  | clkSelected (d : Dom)
  | fcRefKhz
  | fcMinKhz
  | fcMaxKhz
  | fcInterval
  | fcSrc
  | fcStatus
  | fcResult
  deriving DecidableEq, Repr

/-- An entry of the write trace (20_memory.md R68). -/
inductive TraceEntry where
  /-- A RegWrite with the 32-bit value written. -/
  | write (r : Reg) (v : Word)
  /-- A satisfied Wait with the value that satisfied it. -/
  | wait (w : WaitId) (r : Reg) (v : Word)
  /-- A Settle of `n` idle steps. -/
  | settle (n : Nat)
  deriving DecidableEq, Repr

/-- A host bus access at a byte address of the platform (20_memory.md R61 to R64): `n` is the access size
in bytes. -/
inductive HostAccess where
  | read (addr : Word) (n : Nat)
  | write (addr : Word) (n : Nat) (v : Word)
  deriving DecidableEq, Repr

/-- A step of the environment agent (10_state.md R50 to R55). `fcDone up` carries the draw of
45_frequency_counter.md R174: the count is rounded up (`true`) or down (`false`). -/
inductive EnvStep where
  | resetDone (p : Fin 32)
  | oscStable
  | pllLock (p : PllId)
  | muxFlip (d : Dom)
  | fcDone (up : Bool)
  deriving DecidableEq, Repr

/-- One move of one agent: the interleaving of 20_memory.md R69 as data. -/
inductive Move where
  | engine
  | env (e : EnvStep)
  | host (a : HostAccess)
  deriving DecidableEq, Repr

/-- What the bus port last answered the host: the model's own record of the port's output
(20_memory.md R62, R63). `none`: nothing addressed to this block yet. -/
inductive BusReply where
  | none
  | data (v : Word)
  | ack
  | busError
  deriving DecidableEq, Repr

/-- ERR (10_state.md R14). The field CLASS is fixed by CAUSE (60_exceptions.md R200) and computed from it. -/
structure ErrReport where
  stage : BitVec 4
  cause : Cause
  opc : BitVec 8
  unit : BitVec 4
  deriving DecidableEq, Repr

/-- The registers of one PLL (10_state.md R19, R27 to R30). -/
structure Pll where
  refdiv : BitVec 6
  lock : Bool
  corePd : Bool
  vcoPd : Bool
  postdivPd : Bool
  fbdiv : BitVec 9
  postdiv1 : BitVec 3
  postdiv2 : BitVec 3
  vcoHz : Word
  outHz : Word
  deriving DecidableEq, Repr

/-- The two PLL blocks. -/
structure Plls where
  sys : Pll
  aux : Pll
  deriving DecidableEq, Repr

/-- The registers of one clock domain (10_state.md R17, R20, R21, R32 to R34). `main` and `selected` mean
something in two-stage domains only, `enable` in gated domains only; the reading of the registers hides the
reserved one (`Machine/Ops.lean`). `valid` is the domain's bit of DOM_VALID. -/
structure Domain where
  main : Path
  auxsrc : BitVec 3
  enable : Bool
  div : Word
  selected : Path
  hz : Word
  measKhz : Word
  valid : Bool
  deriving DecidableEq, Repr

/-- The six clock domains. -/
structure Domains where
  ref : Domain
  sys : Domain
  usb : Domain
  adc : Domain
  rtc : Domain
  peri : Domain
  deriving DecidableEq, Repr

/-- The oscillator block (10_state.md R24 to R26). OSC_STATUS.ENABLED is a copy of `enable`. -/
structure Osc where
  range : BitVec 4
  enable : Bool
  badWrite : Bool
  stable : Bool
  delay : BitVec 16
  deriving DecidableEq, Repr

/-- The frequency counter (10_state.md R36 to R40) and its hidden state (R43 (e), R55): window length W,
edge count C and measured source. -/
structure Counter where
  refKhz : Word
  minKhz : Word
  maxKhz : Word
  interval : BitVec 4
  src : BitVec 8
  running : Bool
  done : Bool
  pass : Bool
  fail : Bool
  result : Word
  window : Nat
  edges : Nat
  measured : BitVec 8
  deriving DecidableEq, Repr

/-- The hidden state of the command in flight (10_state.md R43 (b), (c)): the operands and validated values
its first micro-operation keeps, held until the operation ends. -/
inductive Work where
  /-- Nothing is latched: no operation is past its validation. -/
  | idle
  /-- RST_HOLD (40_reset_controller.md R101). -/
  | hold (set : Word)
  /-- RST_RELEASE (R102). -/
  | release (set : Word)
  /-- OSC_START (41_oscillator.md R111). -/
  | osc (freq : Word) (delay : BitVec 16)
  /-- PLL_CFG (42_pll_engine.md R124). -/
  | pll (p : PllId) (refdiv : BitVec 6) (pd1 pd2 : BitVec 3) (fbdiv : BitVec 9) (vcoHz : Word)
  /-- MUX_SWITCH (43_clock_mux.md R143); `stepped` says that M1 wrote. -/
  | mux (d : Dom) (main : Path) (auxsrc : BitVec 3) (stepped : Bool)
  /-- DIV_APPLY (44_clock_divider.md R152); `stepped` as for `mux`; `settle` is the length of the Settle and
  `left` the idle steps it still has. -/
  | div (d : Dom) (main : Path) (auxsrc : BitVec 3) (src : Nat) (div old : Word) (stepped : Bool)
      (settle left : Nat)
  /-- FC_MEASURE (45_frequency_counter.md R172). -/
  | fc (src : BitVec 8) (refKhz : Word)
  deriving DecidableEq, Repr

/-- The state of the block. Every field but `params`, `schedule` and `busReply` is the spec's
(10_state.md R10); those three are the model's own (log entries 3, 1, 15). -/
structure State where
  params : Config.Params
  x : Vector Word 8
  fsm : Fsm
  sub : BitVec 8
  step : BitVec 8
  busy : Bool
  done : Bool
  error : Bool
  overrun : Bool
  cmd : Word
  err : ErrReport
  errsnap : Word
  waitLimit : Word
  pollcnt : Word
  oscFreq : Word
  rstCtrl : Word
  rstDone : Word
  osc : Osc
  plls : Plls
  doms : Domains
  fc : Counter
  work : Work
  trace : List TraceEntry
  schedule : List Move
  busReply : BusReply
  deriving DecidableEq, Repr

/-- Why a step stops the model. Both answer positions that 10_state.md R12 and 30_encoding.md R87 exclude
from every reachable state; neither is an error of the block, whose errors are next states. -/
inductive Fault where
  /-- Raised by a command's meaning when (SUB, STEP) and the latched values name no micro-operation of it
  (10_state.md R12: no reachable state is there). Safe: the model stops where the spec says nothing. -/
  | noSuchMicroOp (sub step : BitVec 8)
  /-- Raised by the state gate for a command at its first micro-operation while FSM is one of 1 to 7 or 15
  (30_encoding.md R87: "none can be issued"). Safe: the model stops where the spec says nothing. -/
  | closedGate (fsm : Fsm)
  deriving DecidableEq, Repr

/-- Why the model has no meaning for an instruction. -/
inductive Refusal where
  /-- Raised by `exec` for an instruction whose meaning is not written. Safe. No arm raises it. -/
  | notModelled (mnemonic : String)
  deriving DecidableEq, Repr

/-- The cleared ERR (10_state.md R14). -/
def ErrReport.cleared : ErrReport := ⟨0#4, .none, 0#8, 0#4⟩

/-- A PLL after power-on reset (10_state.md R48). -/
def Pll.reset : Pll :=
  { refdiv := 1#6, lock := false, corePd := true, vcoPd := true, postdivPd := true, fbdiv := 0#9,
    postdiv1 := 7#3, postdiv2 := 7#3, vcoHz := 0#32, outHz := 0#32 }

/-- A domain after power-on reset (10_state.md R48), with the path its CLK_SELECTED shows. -/
def Domain.reset (selected : Path) : Domain :=
  { main := .reference, auxsrc := 0#3, enable := false, div := 0x100#32, selected := selected,
    hz := 0#32, measKhz := 0#32, valid := false }

/-- The six domains after power-on reset (10_state.md R48). -/
def Domains.reset : Domains :=
  { ref := Domain.reset .reference, sys := Domain.reset .reference, usb := Domain.reset .auxiliary,
    adc := Domain.reset .auxiliary, rtc := Domain.reset .auxiliary, peri := Domain.reset .auxiliary }

/-- The counter after power-on reset (10_state.md R48). -/
def Counter.reset : Counter :=
  { refKhz := 0#32, minKhz := 0#32, maxKhz := 0#32, interval := 0#4, src := 0#8, running := false,
    done := false, pass := false, fail := false, result := 0#32, window := 0, edges := 0, measured := 0#8 }

/-- Power-on reset (10_state.md R48, 70_reset_and_hazards.md R230) of a block with the parameters `p`, the
drawn value of OSC_STATUS.BADWRITE (10_state.md R25) and the moves the agents are going to make. -/
def State.powerOn (p : Config.Params) (badWrite : Bool) (schedule : List Move) : State :=
  { params := p,
    x := Vector.replicate 8 0#32,
    fsm := .powerOnReset, sub := 0#8, step := 0#8,
    busy := false, done := false, error := false, overrun := false,
    cmd := 0#32, err := ErrReport.cleared, errsnap := 0#32,
    waitLimit := p.waitLimitReset, pollcnt := 0#32,
    oscFreq := 0#32,
    rstCtrl := p.periphAll, rstDone := 0#32,
    osc := { range := 0#4, enable := false, badWrite := badWrite, stable := false, delay := 0#16 },
    plls := { sys := Pll.reset, aux := Pll.reset },
    doms := Domains.reset,
    fc := Counter.reset,
    work := .idle,
    trace := [],
    schedule := schedule,
    busReply := .none }

/-- The state right after reset: `powerOn` with the default parameters (log entry 3), BADWRITE drawn as 0
(log entry 4) and no move placed (log entry 1). -/
def State.reset : State := State.powerOn Config.defaultParams false []

end Sys2Proof.Machine
end

