-- ==== Sys2Proof/Machine/Flags.lean ====
section
/-! DEFINITION. Every code, status word and predicate over status that the spec computes: register field
codes (10_state.md R12 to R40, 60_exceptions.md R200), `aux_ready` (R35), `pll_in_use` (R45), `dep_valid`
(40_reset_controller.md R102). -/

namespace Sys2Proof.Machine

/-- The domain index d (10_state.md R31). -/
def Dom.index : Dom → Nat
  | .ref => 0
  | .sys => 1
  | .usb => 2
  | .adc => 3
  | .rtc => 4
  | .peri => 5

/-- The six domains in the order of R31. -/
def Dom.all : List Dom := [.ref, .sys, .usb, .adc, .rtc, .peri]

/-- The domain with index `n`; 6 and 7 are reserved (10_state.md R31). -/
def Dom.ofIndex : Nat → Option Dom
  | 0 => some .ref
  | 1 => some .sys
  | 2 => some .usb
  | 3 => some .adc
  | 4 => some .rtc
  | 5 => some .peri
  | _ => none

/-- Whether a domain is two-stage (10_state.md R31). -/
def Dom.twoStage : Dom → Bool
  | .ref => true
  | .sys => true
  | .usb => false
  | .adc => false
  | .rtc => false
  | .peri => false

/-- The 4-bit code of FSM (10_state.md R12). -/
def Fsm.code : Fsm → BitVec 4
  | .powerOnReset => 0#4
  | .peripheralsHeld => 1#4
  | .oscillatorStable => 2#4
  | .pllsLocked => 3#4
  | .referenceClockRouted => 4#4
  | .systemClockRouted => 5#4
  | .derivedClocksConfigured => 6#4
  | .allPeripheralsReleased => 7#4
  | .ready => 8#4
  | .failed => 15#4

/-- ERR.CAUSE (60_exceptions.md R200). -/
def Cause.code : Cause → BitVec 8
  | .none => 0x00#8
  | .fbdivRange => 0x01#8
  | .destGtSrc => 0x02#8
  | .vcoBand => 0x03#8
  | .oscRange => 0x04#8
  | .pllParam => 0x05#8
  | .divZero => 0x10#8
  | .divByZero => 0x11#8
  | .divOverflow => 0x12#8
  | .muxSrcUnconfigured => 0x13#8
  | .resetDep => 0x14#8
  | .pllInUse => 0x15#8
  | .fcParam => 0x16#8
  | .badOperand => 0x17#8
  | .locked => 0x19#8
  | .timeoutResetDone => 0x20#8
  | .timeoutOscStable => 0x21#8
  | .timeoutPllLock => 0x22#8
  | .timeoutMuxSelected => 0x23#8
  | .timeoutFcIdle => 0x24#8
  | .timeoutFcDone => 0x25#8
  | .illegalCommand => 0x40#8

/-- ERR.CLASS of a cause (60_exceptions.md R200): 1 ConfigurationError, 2 InvariantViolation,
3 HardwareTimeout, 4 IllegalCommand. -/
def Cause.cls : Cause → BitVec 4
  | .none => 0#4
  | .fbdivRange => 1#4
  | .destGtSrc => 1#4
  | .vcoBand => 1#4
  | .oscRange => 1#4
  | .pllParam => 1#4
  | .divZero => 2#4
  | .divByZero => 2#4
  | .divOverflow => 2#4
  | .muxSrcUnconfigured => 2#4
  | .resetDep => 2#4
  | .pllInUse => 2#4
  | .fcParam => 2#4
  | .badOperand => 2#4
  | .locked => 2#4
  | .timeoutResetDone => 3#4
  | .timeoutOscStable => 3#4
  | .timeoutPllLock => 3#4
  | .timeoutMuxSelected => 3#4
  | .timeoutFcIdle => 3#4
  | .timeoutFcDone => 3#4
  | .illegalCommand => 4#4

/-- The timeout cause of a Wait: 0x20 + wait id (60_exceptions.md R200, R203). -/
def WaitId.cause : WaitId → Cause
  | .resetDone => .timeoutResetDone
  | .oscStable => .timeoutOscStable
  | .pllLock => .timeoutPllLock
  | .muxSelected => .timeoutMuxSelected
  | .fcIdle => .timeoutFcIdle
  | .fcDone => .timeoutFcDone

/-- The wait id (60_exceptions.md R203). -/
def WaitId.code : WaitId → Nat
  | .resetDone => 0
  | .oscStable => 1
  | .pllLock => 2
  | .muxSelected => 3
  | .fcIdle => 4
  | .fcDone => 5

/-- The PLL registers of index p. -/
def Plls.get (ps : Plls) : PllId → Pll
  | .sys => ps.sys
  | .aux => ps.aux

/-- `ps` with the PLL registers of index p replaced. -/
def Plls.set (ps : Plls) (p : PllId) (v : Pll) : Plls :=
  match p with
  | .sys => { ps with sys := v }
  | .aux => { ps with aux := v }

/-- The registers of domain d. -/
def Domains.get (ds : Domains) : Dom → Domain
  | .ref => ds.ref
  | .sys => ds.sys
  | .usb => ds.usb
  | .adc => ds.adc
  | .rtc => ds.rtc
  | .peri => ds.peri

/-- `ds` with the registers of domain d replaced. -/
def Domains.set (ds : Domains) (d : Dom) (v : Domain) : Domains :=
  match d with
  | .ref => { ds with ref := v }
  | .sys => { ds with sys := v }
  | .usb => { ds with usb := v }
  | .adc => { ds with adc := v }
  | .rtc => { ds with rtc := v }
  | .peri => { ds with peri := v }

/-- The registers of PLL p in a state. -/
def State.pll (s : State) (p : PllId) : Pll := s.plls.get p

/-- The registers of domain d in a state. -/
def State.dom (s : State) (d : Dom) : Domain := s.doms.get d

/-- The state with the registers of PLL p replaced. -/
def State.setPll (s : State) (p : PllId) (v : Pll) : State := { s with plls := s.plls.set p v }

/-- The state with the registers of domain d replaced. -/
def State.setDom (s : State) (d : Dom) (v : Domain) : State := { s with doms := s.doms.set d v }

/-- STATUS (10_state.md R13). -/
def State.statusWord (s : State) : Word :=
  0#8 ++ s.sub ++ s.step ++ s.fsm.code ++ BitVec.ofBool s.overrun ++ BitVec.ofBool s.error ++
    BitVec.ofBool s.done ++ BitVec.ofBool s.busy

/-- ERR (10_state.md R14). -/
def ErrReport.word (e : ErrReport) : Word := 0#4 ++ e.unit ++ e.opc ++ e.cause.code ++ e.stage ++ e.cause.cls

/-- DOM_VALID (10_state.md R17). -/
def State.domValidWord (s : State) : Word :=
  0#26 ++ BitVec.ofBool s.doms.peri.valid ++ BitVec.ofBool s.doms.rtc.valid ++ BitVec.ofBool s.doms.adc.valid ++
    BitVec.ofBool s.doms.usb.valid ++ BitVec.ofBool s.doms.sys.valid ++ BitVec.ofBool s.doms.ref.valid

/-- OSC_CTRL (10_state.md R24). -/
def Osc.ctrlWord (o : Osc) : Word := 0#23 ++ BitVec.ofBool o.enable ++ 0#4 ++ o.range

/-- OSC_STATUS (10_state.md R25). -/
def Osc.statusWord (o : Osc) : Word :=
  BitVec.ofBool o.stable ++ 0#6 ++ BitVec.ofBool o.badWrite ++ 0#23 ++ BitVec.ofBool o.enable

/-- PLL_CS (10_state.md R27). -/
def Pll.csWord (p : Pll) : Word := BitVec.ofBool p.lock ++ 0#25 ++ p.refdiv

/-- PLL_PWR (10_state.md R28). -/
def Pll.pwrWord (p : Pll) : Word :=
  0#29 ++ BitVec.ofBool p.postdivPd ++ BitVec.ofBool p.vcoPd ++ BitVec.ofBool p.corePd

/-- PLL_FBDIV (10_state.md R29). -/
def Pll.fbdivWord (p : Pll) : Word := 0#23 ++ p.fbdiv

/-- PLL_PRIM (10_state.md R30). -/
def Pll.primWord (p : Pll) : Word := 0#25 ++ p.postdiv2 ++ 0#1 ++ p.postdiv1

/-- The word of CLK_CTRL with the given field values (10_state.md R32). -/
def clkCtrlWord (main : Path) (auxsrc : BitVec 3) (enable : Bool) : Word :=
  0#20 ++ BitVec.ofBool enable ++ 0#4 ++ auxsrc ++ 0#3 ++ main.bit

/-- The one-hot value of CLK_SELECTED for a path (10_state.md R34). -/
def selectedWord : Path → Word
  | .reference => 0b01#32
  | .auxiliary => 0b10#32

/-- CLK_CTRL.MAIN as it reads: reserved (0) in a gated domain (10_state.md R32). -/
def Domain.mainOf (v : Domain) (d : Dom) : Path := if d.twoStage then v.main else .reference

/-- CLK_CTRL.ENABLE as it reads: reserved (0) in a two-stage domain (10_state.md R32). -/
def Domain.enableOf (v : Domain) (d : Dom) : Bool := if d.twoStage then false else v.enable

/-- CLK_CTRL[d] (10_state.md R32). -/
def Domain.ctrlWord (v : Domain) (d : Dom) : Word := clkCtrlWord (v.mainOf d) v.auxsrc (v.enableOf d)

/-- The path that drives domain d: a gated domain reads 0b10 always (10_state.md R34). -/
def Domain.selectedOf (v : Domain) (d : Dom) : Path := if d.twoStage then v.selected else .auxiliary

/-- FC_STATUS (10_state.md R39). -/
def Counter.statusWord (c : Counter) : Word :=
  0#28 ++ BitVec.ofBool c.fail ++ BitVec.ofBool c.pass ++ BitVec.ofBool c.done ++ BitVec.ofBool c.running

/-- The crystal oscillator is configured: ENABLE = 1 and STABLE = 1 (10_state.md R35, R44). -/
def Osc.ready (o : Osc) : Bool := o.enable && o.stable

/-- PLL p has a configured output: LOCK = 1 and POSTDIV_PD = 0 (10_state.md R35, R44). -/
def Pll.ready (p : Pll) : Bool := p.lock && !p.postdivPd

/-- `aux_ready(a)` (10_state.md R35). -/
def State.auxReady (s : State) (a : BitVec 3) : Bool :=
  match a.toNat with
  | 0 => s.osc.ready
  | 1 => (s.pll .sys).ready
  | 2 => (s.pll .aux).ready
  | 3 => true
  | _ => false

/-- The AUXSRC code of the output of PLL p: 1 + p (10_state.md R35, R45). -/
def pllAuxCode : PllId → BitVec 3
  | .sys => 1#3
  | .aux => 2#3

/-- Domain d selects its auxiliary input or is about to (10_state.md R45): a two-stage domain with MAIN = 1
or CLK_SELECTED = 0b10, a gated domain with ENABLE = 1. -/
def Domain.usesAux (v : Domain) (d : Dom) : Bool :=
  if d.twoStage then v.main == .auxiliary || v.selected == .auxiliary else v.enable

/-- `pll_in_use(p)` (10_state.md R45). -/
def State.pllInUse (s : State) (p : PllId) : Bool :=
  Dom.all.any fun d => (s.dom d).auxsrc == pllAuxCode p && (s.dom d).usesAux d

/-- `clock_dep` of the peripherals 0 to 6 (10_state.md R41). -/
def clockDep : Nat → Option Dom
  | 0 => some .adc
  | 1 => some .rtc
  | 2 => some .peri
  | 3 => some .peri
  | 4 => some .peri
  | 5 => some .peri
  | 6 => some .usb
  | _ => none

/-- `dep_valid(d)` (40_reset_controller.md R102). -/
def State.depValid (s : State) (d : Dom) : Bool :=
  (s.dom d).valid && (d.twoStage || (s.dom d).enable)

/-- Peripheral p has no clock_dep or a valid one (40_reset_controller.md R102). -/
def State.periphReleasable (s : State) (p : Nat) : Bool :=
  match clockDep p with
  | some d => s.depValid d
  | none => true

/-- The mask of the peripherals 0 to 6 whose clock_dep is not valid (40_reset_controller.md R102). -/
def State.unreleasable (s : State) : Word :=
  0#25 ++ BitVec.ofBool (!s.periphReleasable 6) ++ BitVec.ofBool (!s.periphReleasable 5) ++
    BitVec.ofBool (!s.periphReleasable 4) ++ BitVec.ofBool (!s.periphReleasable 3) ++
    BitVec.ofBool (!s.periphReleasable 2) ++ BitVec.ofBool (!s.periphReleasable 1) ++
    BitVec.ofBool (!s.periphReleasable 0)

end Sys2Proof.Machine
end

