-- ==== Sys2Proof/Machine/Ops.lean ====
section
/-! DEFINITION. The named operations over the registers: the register map, reading and writing a register
with its same-step effects (10_state.md R10, R51 to R55; 20_memory.md R67), the Wait (60_exceptions.md R203),
the three endings of a command (30_encoding.md R88, 60_exceptions.md R201, R202), the issue (R86) and the
state gate (R87). -/

namespace Sys2Proof.Machine

/-! ### The register map -/

/-- Byte offset of a register from `CBE_BASE` (10_state.md R10). -/
def Reg.offset : Reg → Nat
  | .cmd => 0x000
  | .status => 0x004
  | .err => 0x008
  | .errsnap => 0x00C
  | .waitLimit => 0x010
  | .pollcnt => 0x014
  | .domValid => 0x018
  | .x i => 0x020 + 4 * i.val
  | .domHz d => 0x040 + 4 * d.index
  | .domMeasKhz d => 0x060 + 4 * d.index
  | .oscFreq => 0x080
  | .pllVcoHz .sys => 0x084
  | .pllOutHz .sys => 0x088
  | .pllVcoHz .aux => 0x08C
  | .pllOutHz .aux => 0x090
  | .rstCtrl => 0x100
  | .rstDone => 0x104
  | .oscCtrl => 0x110
  | .oscStatus => 0x114
  | .oscStartup => 0x118
  | .pllCs .sys => 0x140
  | .pllPwr .sys => 0x144
  | .pllFbdiv .sys => 0x148
  | .pllPrim .sys => 0x14C
  | .pllCs .aux => 0x160
  | .pllPwr .aux => 0x164
  | .pllFbdiv .aux => 0x168
  | .pllPrim .aux => 0x16C
  | .clkCtrl d => 0x200 + 0x10 * d.index
  | .clkDiv d => 0x204 + 0x10 * d.index
  | .clkSelected d => 0x208 + 0x10 * d.index
  | .fcRefKhz => 0x300
  | .fcMinKhz => 0x304
  | .fcMaxKhz => 0x308
  | .fcInterval => 0x30C
  | .fcSrc => 0x310
  | .fcStatus => 0x314
  | .fcResult => 0x318

/-- Every register of the map, in the order of its offsets. -/
def Reg.all : List Reg :=
  [.cmd, .status, .err, .errsnap, .waitLimit, .pollcnt, .domValid] ++
  [.x 0, .x 1, .x 2, .x 3, .x 4, .x 5, .x 6, .x 7] ++
  Dom.all.map .domHz ++ Dom.all.map .domMeasKhz ++
  [.oscFreq, .pllVcoHz .sys, .pllOutHz .sys, .pllVcoHz .aux, .pllOutHz .aux,
   .rstCtrl, .rstDone, .oscCtrl, .oscStatus, .oscStartup,
   .pllCs .sys, .pllPwr .sys, .pllFbdiv .sys, .pllPrim .sys,
   .pllCs .aux, .pllPwr .aux, .pllFbdiv .aux, .pllPrim .aux] ++
  Dom.all.flatMap (fun d => [.clkCtrl d, .clkDiv d, .clkSelected d]) ++
  [.fcRefKhz, .fcMinKhz, .fcMaxKhz, .fcInterval, .fcSrc, .fcStatus, .fcResult]

/-- The register at an offset; every other offset is unmapped (20_memory.md R65). -/
def Reg.ofOffset (o : Nat) : Option Reg := Reg.all.find? (fun r => r.offset == o)

/-! ### Reading a register -/

/-- The current value of a register, reserved bits as 0 (20_memory.md R63). -/
def State.regRead (s : State) (r : Reg) : Word :=
  match r with
  | .cmd => s.cmd
  | .status => s.statusWord
  | .err => s.err.word
  | .errsnap => s.errsnap
  | .waitLimit => s.waitLimit
  | .pollcnt => s.pollcnt
  | .domValid => s.domValidWord
  | .x i => s.x[i.val]
  | .domHz d => (s.dom d).hz
  | .domMeasKhz d => (s.dom d).measKhz
  | .oscFreq => s.oscFreq
  | .pllVcoHz p => (s.pll p).vcoHz
  | .pllOutHz p => (s.pll p).outHz
  | .rstCtrl => s.rstCtrl &&& s.params.periphAll
  | .rstDone => s.rstDone &&& s.params.periphAll
  | .oscCtrl => s.osc.ctrlWord
  | .oscStatus => s.osc.statusWord
  | .oscStartup => s.osc.delay.setWidth 32
  | .pllCs p => (s.pll p).csWord
  | .pllPwr p => (s.pll p).pwrWord
  | .pllFbdiv p => (s.pll p).fbdivWord
  | .pllPrim p => (s.pll p).primWord
  | .clkCtrl d => (s.dom d).ctrlWord d
  | .clkDiv d => (s.dom d).div
  | .clkSelected d => selectedWord ((s.dom d).selectedOf d)
  | .fcRefKhz => s.fc.refKhz
  | .fcMinKhz => s.fc.minKhz
  | .fcMaxKhz => s.fc.maxKhz
  | .fcInterval => s.fc.interval.setWidth 32
  | .fcSrc => s.fc.src.setWidth 32
  | .fcStatus => s.fc.statusWord
  | .fcResult => s.fc.result

/-- The word at an offset: the register there, or 0 where none is (20_memory.md R63, R65). -/
def State.wordAt (s : State) (o : Nat) : Word :=
  match Reg.ofOffset o with
  | some r => s.regRead r
  | none => 0#32

/-- The byte at an offset in the little-endian byte view of the register space (20_memory.md R61). -/
def State.byteAt (s : State) (a : Nat) : Byte := (s.wordAt (4 * (a / 4))).extractLsb' (8 * (a % 4)) 8

/-! ### RegWrite -/

/-- The start of a measurement by a write of FC_SRC (10_state.md R55, 45_frequency_counter.md R174): a write
of 0 starts nothing. -/
def Counter.writeSrc (c : Counter) (v : BitVec 8) : Counter :=
  if v = 0 then { c with src := v }
  else
    { c with
      src := v, running := true, done := false, pass := false, fail := false,
      window := (c.refKhz.toNat <<< c.interval.toNat) / 1000, edges := 0, measured := v }

/-- A write of the 32-bit value `v` to PLL_PWR: setting CORE_PD or VCO_PD clears LOCK in the same step
(10_state.md R28, R53). -/
def Pll.writePwr (p : Pll) (v : Word) : Pll :=
  { p with
    corePd := v.getLsbD 0, vcoPd := v.getLsbD 1, postdivPd := v.getLsbD 2,
    lock := p.lock && !(v.getLsbD 0 || v.getLsbD 1) }

/-- A write of PLL_FBDIV: writing FBDIV = 0 clears LOCK in the same step (10_state.md R29, R53). -/
def Pll.writeFbdiv (p : Pll) (v : Word) : Pll :=
  { p with fbdiv := v.extractLsb' 0 9, lock := p.lock && v.extractLsb' 0 9 != 0#9 }

/-- A write of CLK_CTRL[d]: the field that is reserved in the domain's kind is not stored (10_state.md R32). -/
def Domain.writeCtrl (v : Domain) (d : Dom) (w : Word) : Domain :=
  { v with
    main := if d.twoStage then Path.ofBit (w.getLsbD 0) else v.main,
    auxsrc := w.extractLsb' 4 3,
    enable := if d.twoStage then v.enable else w.getLsbD 11 }

/-- What the engine's write of the 32-bit value `v` to register `r` stores, with the effects "in the same
step" (10_state.md R22 to R40, R51 to R55; 20_memory.md R67). Only target registers are written this way;
the read-only ones keep their value. -/
def State.regStore (s : State) (r : Reg) (v : Word) : State :=
  match r with
  | .rstCtrl => { s with rstCtrl := v &&& s.params.periphAll, rstDone := s.rstDone &&& ~~~v }
  | .oscCtrl =>
    { s with
      osc := { s.osc with
        range := v.extractLsb' 0 4, enable := v.getLsbD 8,
        badWrite := s.osc.badWrite || v.extractLsb' 0 4 != 0#4 } }
  | .oscStatus => { s with osc := { s.osc with badWrite := s.osc.badWrite && !v.getLsbD 24 } }
  | .oscStartup => { s with osc := { s.osc with delay := v.extractLsb' 0 16 } }
  | .pllCs p => s.setPll p { s.pll p with refdiv := v.extractLsb' 0 6 }
  | .pllPwr p => s.setPll p ((s.pll p).writePwr v)
  | .pllFbdiv p => s.setPll p ((s.pll p).writeFbdiv v)
  | .pllPrim p => s.setPll p { s.pll p with postdiv1 := v.extractLsb' 0 3, postdiv2 := v.extractLsb' 4 3 }
  | .clkCtrl d => s.setDom d ((s.dom d).writeCtrl d v)
  | .clkDiv d => s.setDom d { s.dom d with div := v }
  | .fcRefKhz => { s with fc := { s.fc with refKhz := v } }
  | .fcMinKhz => { s with fc := { s.fc with minKhz := v } }
  | .fcMaxKhz => { s with fc := { s.fc with maxKhz := v } }
  | .fcInterval => { s with fc := { s.fc with interval := v.extractLsb' 0 4 } }
  | .fcSrc => { s with fc := s.fc.writeSrc (v.extractLsb' 0 8) }
  | .rstDone => s
  | .clkSelected _ => s
  | .fcStatus => s
  | .fcResult => s
  | .cmd => s
  | .status => s
  | .err => s
  | .errsnap => s
  | .waitLimit => s
  | .pollcnt => s
  | .domValid => s
  | .x _ => s
  | .domHz _ => s
  | .domMeasKhz _ => s
  | .oscFreq => s
  | .pllVcoHz _ => s
  | .pllOutHz _ => s

/-- An entry appended to the write trace (20_memory.md R68). -/
def State.traced (s : State) (e : TraceEntry) : State := { s with trace := s.trace ++ [e] }

/-- `RegWrite(REG, v)` (00_scope.md R7): the write and its entry in the trace. -/
def State.regWrite (s : State) (r : Reg) (v : Word) : State := (s.regStore r v).traced (.write r v)

/-- `RegWrite(CLK_CTRL[d] with MAIN = m)` (00_scope.md R7). -/
def State.writeMain (s : State) (d : Dom) (m : Path) : State :=
  s.regWrite (.clkCtrl d) (clkCtrlWord m (s.dom d).auxsrc ((s.dom d).enableOf d))

/-- `RegWrite(CLK_CTRL[d] with AUXSRC = a)` (00_scope.md R7). -/
def State.writeAuxsrc (s : State) (d : Dom) (a : BitVec 3) : State :=
  s.regWrite (.clkCtrl d) (clkCtrlWord ((s.dom d).mainOf d) a ((s.dom d).enableOf d))

/-- `RegWrite(CLK_CTRL[d] with ENABLE = e)` (00_scope.md R7). -/
def State.writeEnable (s : State) (d : Dom) (e : Bool) : State :=
  s.regWrite (.clkCtrl d) (clkCtrlWord ((s.dom d).mainOf d) (s.dom d).auxsrc e)

/-- `x[i] <- v` (00_scope.md R7). -/
def State.setX (s : State) (i : Fin 8) (v : Word) : State := { s with x := s.x.set i.val v }

/-- The result registers a command writes with its last micro-operation (10_state.md R11). -/
def State.setResults (s : State) : List (Fin 8 × Word) → State
  | [] => s
  | (i, v) :: rest => (s.setX i v).setResults rest

/-- The position moves to micro-operation `k` of the operation in progress (10_state.md R12). -/
def State.goto (s : State) (k : BitVec 8) : State := { s with step := k }

/-- The hidden state of the operation in progress (10_state.md R43). -/
def State.keep (s : State) (w : Work) : State := { s with work := w }

/-! ### The outcome of one micro-operation -/

/-- A rejection: its cause and the offending value (60_exceptions.md R201). -/
structure Rejection where
  cause : Cause
  snap : Word
  deriving DecidableEq, Repr

/-- What one micro-operation of an operation does, before the command that runs the operation (a command of
its own, or BRINGUP) turns it into a step. -/
inductive Micro where
  /-- The operation goes on, or a Wait polls again. -/
  | cont (s : State)
  /-- The last micro-operation is done; `results` are the values for x[4] to x[7]. -/
  | finish (s : State) (results : List (Fin 8 × Word))
  /-- The validation rejects (60_exceptions.md R201). -/
  | reject (r : Rejection)
  /-- A Wait gives up, having last read `v` (60_exceptions.md R203). -/
  | timeout (w : WaitId) (v : Word)
  /-- The position names no micro-operation of the operation. -/
  | stray
  deriving DecidableEq, Repr

/-- One more unsuccessful poll, saturating (60_exceptions.md R203). -/
def nextPoll (n : Word) : Word := if n = 0xFFFFFFFF#32 then n else n + 1#32

/-- The state a satisfied Wait leaves: the entry in the trace, POLLCNT cleared, micro-operation `k` next
(60_exceptions.md R203). -/
def State.waited (s : State) (w : WaitId) (r : Reg) (k : BitVec 8) : State :=
  { s.traced (.wait w r (s.regRead r)) with pollcnt := 0#32, step := k }

/-- The state an unsuccessful poll leaves: the position stays (60_exceptions.md R203). -/
def State.polled (s : State) : State := { s with pollcnt := nextPoll s.pollcnt }

/-- One poll of `Wait(w, r, pred)` (60_exceptions.md R203); a satisfied Wait moves to micro-operation `k`. -/
def State.wait (s : State) (w : WaitId) (r : Reg) (pred : Word → Bool) (k : BitVec 8) : Micro :=
  if pred (s.regRead r) then .cont (s.waited w r k)
  else if s.waitLimit ≠ 0#32 ∧ s.waitLimit ≤ nextPoll s.pollcnt then .timeout w (s.regRead r)
  else .cont s.polled

/-! ### The endings of a command -/

/-- What every ending of a command does to the position (30_encoding.md R88, 60_exceptions.md R201, R202);
the hidden state of the command is gone (10_state.md R43). -/
def State.endCommand (s : State) : State :=
  { s with busy := false, sub := 0#8, step := 0#8, pollcnt := 0#32, work := .idle }

/-- `Complete()` (30_encoding.md R88). -/
def State.complete (s : State) : State := { s.endCommand with done := true }

/-- `Reject` (60_exceptions.md R201). -/
def State.reject (s : State) (r : Rejection) (opc : BitVec 8) (unit : BitVec 4) : State :=
  { s.endCommand with error := true, err := ⟨0#4, r.cause, opc, unit⟩, errsnap := r.snap }

/-- `Fatal` (60_exceptions.md R202). -/
def State.fatal (s : State) (r : Rejection) (stage : BitVec 4) (opc : BitVec 8) (unit : BitVec 4) : State :=
  { s.endCommand with error := true, err := ⟨stage, r.cause, opc, unit⟩, errsnap := r.snap, fsm := .failed }

/-- The step a command of its own makes of a micro-operation (30_encoding.md R88, 60_exceptions.md R201 to
R203): outside BRINGUP the STAGE of a Fatal is 0. -/
def State.commandStep (s : State) (opc : BitVec 8) (unit : BitVec 4) (m : Micro) :
    Host.Outcome State Fault Refusal :=
  match m with
  | .cont t => .next t
  | .finish t results => .next (t.setResults results).complete
  | .reject r => .next (s.reject r opc unit)
  | .timeout w v => .next (s.fatal ⟨w.cause, v⟩ 0#4 opc unit)
  | .stray => .fault (.noSuchMicroOp s.sub s.step)

/-- The state gate (30_encoding.md R87) before `run`, for a command that Ready accepts iff `inReady`. -/
def State.gate (s : State) (inReady : Bool) (opc : BitVec 8) (unit : BitVec 4)
    (run : Host.Outcome State Fault Refusal) : Host.Outcome State Fault Refusal :=
  match s.fsm with
  | .powerOnReset => run
  | .ready => if inReady then run else .next (s.reject ⟨.locked, 0#28 ++ s.fsm.code⟩ opc unit)
  | .peripheralsHeld => .fault (.closedGate s.fsm)
  | .oscillatorStable => .fault (.closedGate s.fsm)
  | .pllsLocked => .fault (.closedGate s.fsm)
  | .referenceClockRouted => .fault (.closedGate s.fsm)
  | .systemClockRouted => .fault (.closedGate s.fsm)
  | .derivedClocksConfigured => .fault (.closedGate s.fsm)
  | .allPeripheralsReleased => .fault (.closedGate s.fsm)
  | .failed => .fault (.closedGate s.fsm)

/-- A command other than BRINGUP (30_encoding.md R86): the state gate at its first micro-operation, then the
operation. -/
def State.command (s : State) (inReady : Bool) (opc : BitVec 8) (unit : BitVec 4) (m : Micro) :
    Host.Outcome State Fault Refusal :=
  if s.step = 0#8 then s.gate inReady opc unit (s.commandStep opc unit m) else s.commandStep opc unit m

/-! ### Issue and fetch -/

/-- The issue of the command word `w` (30_encoding.md R86). -/
def State.issue (s : State) (w : Word) : State :=
  { s with
    cmd := w, busy := true, done := false, error := false, err := ErrReport.cleared, errsnap := 0#32,
    sub := 0#8, step := 0#8, pollcnt := 0#32, work := .idle }

/-- The word the engine decodes: the latched copy in CMD (10_state.md R15, 20_memory.md R71). -/
def State.fetch (s : State) : Word := s.cmd

/-- The rejection of an illegal command word (30_encoding.md R84): OPC is bits 31:24 of the word, UNIT 0. -/
def State.rejectIllegal (s : State) : State := s.reject ⟨.illegalCommand, s.fetch⟩ (opcodeOf s.fetch) 0#4

end Sys2Proof.Machine
end

