-- ==== Sys2Proof/Machine/Operands.lean ====
section
/-! DEFINITION. The operands of the operations (30_encoding.md R82, 46_bringup_sequencer.md R186, R187): the
operations with their operands resolved, the operands BRINGUP takes from the plan, and the open function
`settle_cycles`. -/

namespace Sys2Proof.Machine

/-- Operand register x[i] (10_state.md R11). -/
def State.xr (s : State) (i : Fin 8) : Word := s.x[i.val]

/-- The open function `settle_cycles` (00_scope.md R5, 44_clock_divider.md R158): the parameter's points, and
the suggested function elsewhere (log entry 5). -/
def settleCycles (p : Config.Params) (fSys fDom : Nat) : Nat :=
  match p.settlePoints.find? (fun q => q.fSys == fSys && q.fDom == fDom) with
  | some q => q.n
  | none => if fDom = 0 then 0 else 3 * (fSys / fDom + 1)

/-- An operation of the source with its operands (00_scope.md R2): what a command, or a sub-operation of
BRINGUP, runs. -/
inductive Op where
  | hold (set : Word)
  | release (set : Word)
  | osc (freq : Word)
  | pll (p : PllId) (refdiv : BitVec 6) (pd1 pd2 : BitVec 3) (targetVco : Word)
  | mux (dom : BitVec 3) (main : Path) (auxsrc : BitVec 3)
  | div (dom : BitVec 3) (main : Path) (auxsrc : BitVec 3) (src : Nat) (dst : Word)
  | fc (src : BitVec 8) (refKhz : Word)
  deriving DecidableEq, Repr

/-- The opcode ERR.OPC reports for an operation (10_state.md R14). -/
def Op.opcode : Op → BitVec 8
  | .hold _ => 0x10#8
  | .release _ => 0x11#8
  | .osc _ => 0x20#8
  | .pll _ _ _ _ _ => 0x30#8
  | .mux _ _ _ => 0x40#8
  | .div _ _ _ _ _ => 0x50#8
  | .fc _ _ => 0x60#8

/-- The index ERR.UNIT reports for an operation: its p or d, or 0 (10_state.md R14). -/
def Op.unit : Op → BitVec 4
  | .hold _ => 0#4
  | .release _ => 0#4
  | .osc _ => 0#4
  | .pll p _ _ _ _ => 0#3 ++ p.bit
  | .mux dom _ _ => 0#1 ++ dom
  | .div dom _ _ _ _ => 0#1 ++ dom
  | .fc _ _ => 0#4

/-- `plan_src_hz(d)` (46_bringup_sequencer.md R186). The last cases are operands the validation refuses before
it looks at the source frequency (44_clock_divider.md R151 (b)): log entry 19. -/
def State.planSrcHz (s : State) (d : Dom) (pl : Config.DomPlan) : Nat :=
  match pl.main, pl.auxsrc.toNat with
  | .auxiliary, 0 => s.oscFreq.toNat
  | .auxiliary, 1 => (s.pll .sys).outHz.toNat
  | .auxiliary, 2 => (s.pll .aux).outHz.toNat
  | .auxiliary, 3 => (s.dom .sys).hz.toNat
  | .auxiliary, _ => 0
  | .reference, _ =>
    match d with
    | .ref => s.params.bootHz
    | .sys => (s.dom .ref).hz.toNat
    | .usb => 0
    | .adc => 0
    | .rtc => 0
    | .peri => 0

/-- The DIV_APPLY of domain d in the plan (46_bringup_sequencer.md R187, SUB 5 to 10). -/
def State.planDiv (s : State) (d : Dom) (pl : Config.DomPlan) : Op :=
  .div (BitVec.ofNat 3 d.index) pl.main pl.auxsrc (s.planSrcHz d pl) pl.destHz

/-- The PLL_CFG of PLL p in the plan (46_bringup_sequencer.md R187, SUB 3 and 4). -/
def planPll (p : PllId) (pl : Config.PllPlan) : Op := .pll p pl.refdiv pl.pd1 pl.pd2 pl.targetVco

/-- The FC_MEASURE of domain d (46_bringup_sequencer.md R190): SRC = 4 + d, reference DOM_HZ[0] div 1000. -/
def State.planFc (s : State) (d : Dom) : Op :=
  .fc (BitVec.ofNat 8 (4 + d.index)) (BitVec.ofNat 32 ((s.dom .ref).hz.toNat / 1000))

/-- The operation of sub-operation `k` of BRINGUP (46_bringup_sequencer.md R187); 12 to 17 exist only when
V = 1. -/
def State.planOp (s : State) (verify : Bool) (k : Nat) : Option Op :=
  match k with
  | 0 => some (.hold s.params.periphAll)
  | 1 => some (.release (s.params.periphAll &&& ~~~Config.lateSet))
  | 2 => some (.osc s.params.plan.xoscHz)
  | 3 => some (planPll .sys s.params.plan.pllSys)
  | 4 => some (planPll .aux s.params.plan.pllAux)
  | 5 => some (s.planDiv .ref s.params.plan.domRef)
  | 6 => some (s.planDiv .sys s.params.plan.domSys)
  | 7 => some (s.planDiv .usb s.params.plan.domUsb)
  | 8 => some (s.planDiv .adc s.params.plan.domAdc)
  | 9 => some (s.planDiv .rtc s.params.plan.domRtc)
  | 10 => some (s.planDiv .peri s.params.plan.domPeri)
  | 11 => some (.release s.params.periphAll)
  | n =>
    if verify then
      match Dom.ofIndex (n - 12) with
      | some d => some (s.planFc d)
      | none => none
    else none

/-- The FSM value after sub-operation `k` completes (46_bringup_sequencer.md R187, last column). -/
def fsmAfter (k : Nat) : Fsm :=
  match k with
  | 0 => .powerOnReset
  | 1 => .peripheralsHeld
  | 2 => .oscillatorStable
  | 3 => .oscillatorStable
  | 4 => .pllsLocked
  | 5 => .referenceClockRouted
  | 6 => .systemClockRouted
  | 7 => .systemClockRouted
  | 8 => .systemClockRouted
  | 9 => .systemClockRouted
  | 10 => .derivedClocksConfigured
  | _ => .allPeripheralsReleased

/-- ERR.STAGE inside BRINGUP: the state that was being reached, FSM + 1 (60_exceptions.md R202). -/
def State.stage (s : State) : BitVec 4 := s.fsm.code + 1#4

end Sys2Proof.Machine
end

