-- ==== Sys2Proof/Machine/Mux.lean ====
section
/-! DEFINITION. The ClockMux: the mux sequence and MUX_SWITCH (43_clock_mux.md R140 to R144). A
micro-operation that is passed is one engine step that changes nothing but the position (log entry 7). -/

namespace Sys2Proof.Machine

/-- Check (b) of R141: the operands of a two-stage domain. -/
def twoStageOperandRejection (main : Path) (auxsrc : BitVec 3) : Option Rejection :=
  if legalTwoStageSource main auxsrc then none else some ⟨.badOperand, auxsrc.setWidth 32⟩

/-- Checks (c) and (d) of R141: never away from, nor to, an unconfigured auxiliary input. -/
def State.twoStageReadyRejection (s : State) (d : Dom) (main : Path) (auxsrc : BitVec 3) : Option Rejection :=
  if (s.dom d).selectedOf d = .auxiliary ∧ ¬ s.auxReady (s.dom d).auxsrc then
    some ⟨.muxSrcUnconfigured, s.regRead (.clkCtrl d)⟩
  else if main = .auxiliary ∧ ¬ s.auxReady auxsrc then some ⟨.muxSrcUnconfigured, auxsrc.setWidth 32⟩
  else none

/-- The two-stage domain that MUX_SWITCH's field DOM names (R141 (a)). -/
def muxDomain (dom : BitVec 3) : Option Dom := (Dom.ofIndex dom.toNat).filter Dom.twoStage

/-- STEP 0 of MUX_SWITCH (R141, R143). -/
def startMux (dom : BitVec 3) (main : Path) (auxsrc : BitVec 3) (s : State) : Micro :=
  match muxDomain dom with
  | none => .reject ⟨.badOperand, dom.setWidth 32⟩
  | some d =>
    match twoStageOperandRejection main auxsrc with
    | some r => .reject r
    | none =>
      match s.twoStageReadyRejection d main auxsrc with
      | some r => .reject r
      | none => .cont ((s.keep (.mux d main auxsrc false)).goto 1#8)

/-- M1 writes: the domain goes to an auxiliary source while MAIN selects the auxiliary path (R142). -/
def State.mustStepBack (s : State) (d : Dom) (main : Path) : Bool :=
  main == .auxiliary && (s.dom d).mainOf d == .auxiliary

/-- M1 (R142); `w` is the hidden state that remembers that M1 wrote, `k` the next micro-operation. -/
def muxM1 (d : Dom) (main : Path) (w : Work) (k : BitVec 8) (s : State) : Micro :=
  if s.mustStepBack d main then .cont (((s.writeMain d .reference).keep w).goto k) else .cont (s.goto k)

/-- M2 (R142). -/
def muxM2 (d : Dom) (stepped : Bool) (k : BitVec 8) (s : State) : Micro :=
  if stepped then s.wait .muxSelected (.clkSelected d) (fun v => v == selectedWord .reference) k
  else .cont (s.goto k)

/-- M3 (R142). -/
def muxM3 (d : Dom) (main : Path) (auxsrc : BitVec 3) (k : BitVec 8) (s : State) : Micro :=
  match main with
  | .auxiliary => .cont ((s.writeAuxsrc d auxsrc).goto k)
  | .reference => .cont (s.goto k)

/-- M4 (R142). -/
def muxM4 (d : Dom) (main : Path) (k : BitVec 8) (s : State) : Micro := .cont ((s.writeMain d main).goto k)

/-- M5 (R142). -/
def muxM5 (d : Dom) (main : Path) (k : BitVec 8) (s : State) : Micro :=
  s.wait .muxSelected (.clkSelected d) (fun v => v == selectedWord main) k

/-- STEP 1 to 6 of MUX_SWITCH (R143). -/
def muxStep (d : Dom) (main : Path) (auxsrc : BitVec 3) (stepped : Bool) (k : Nat) (s : State) : Micro :=
  match k with
  | 1 => muxM1 d main (.mux d main auxsrc true) 2#8 s
  | 2 => muxM2 d stepped 3#8 s
  | 3 => muxM3 d main auxsrc 4#8 s
  | 4 => muxM4 d main 5#8 s
  | 5 => muxM5 d main 6#8 s
  | 6 => .finish s [(4, s.regRead (.clkSelected d)), (5, s.regRead (.clkCtrl d))]
  | _ => .stray

/-- One micro-operation of `switch_glitchless(domain, new_source)` (R143). -/
def runMux (dom : BitVec 3) (main : Path) (auxsrc : BitVec 3) (s : State) : Micro :=
  if s.step = 0#8 then startMux dom main auxsrc s
  else
    match s.work with
    | .mux d main' auxsrc' stepped => muxStep d main' auxsrc' stepped s.step.toNat s
    | _ => .stray

/-- MUX_SWITCH (R143): no x[i] operand, the results go to x[4] and x[5]. -/
def execMuxSwitch (dom : BitVec 3) (main : Path) (auxsrc : BitVec 3) (s : State) :
    Host.Outcome State Fault Refusal :=
  s.command false 0x40#8 (0#1 ++ dom) (runMux dom main auxsrc s)

end Sys2Proof.Machine
end

