-- ==== Sys2Proof/Machine/Divider.lean ====
section
/-! DEFINITION. The ClockDivider: the 24.8 divisor, the gated sequence and DIV_APPLY (44_clock_divider.md R150
to R158). -/

namespace Sys2Proof.Machine

/-- `floor((src << 8) / dst)` on unbounded naturals (R151 (e)). -/
def divisorOf (src dst : Nat) : Nat := (src <<< 8) / dst

/-- The achieved frequency `(src << 8) div div` (R156). -/
def achievedHz (src : Nat) (div : Word) : Nat := (src <<< 8) / div.toNat

/-- The value DOM_HZ[d] takes (R152, R156): the achieved frequency. DESIGN CHOICE, safe (log entry 27): where
it is 2^32 or more the spec does not say what the 32-bit register holds, and the value is free. Only BRINGUP's
sub-operation 5 with MAIN = 0 and a `BOOT_HZ` of 2^32 or more gets there. -/
def domHzOf (src : Nat) (div : Word) : Word :=
  if achievedHz src div < 2 ^ 32 then BitVec.ofNat 32 (achievedHz src div)
  else Config.freeDomHz (achievedHz src div)

/-- Check (b) of R151. -/
def divOperandRejection (d : Dom) (main : Path) (auxsrc : BitVec 3) : Option Rejection :=
  if d.twoStage then twoStageOperandRejection main auxsrc
  else if legalGatedSource main auxsrc then none
  else some ⟨.badOperand, 0#21 ++ auxsrc ++ 0#3 ++ main.bit ++ 0#4⟩

/-- Checks (c), (d) and (e) of R151. -/
def divisorRejection (src : Nat) (dst : Word) : Option Rejection :=
  if src < dst.toNat then some ⟨.destGtSrc, dst⟩
  else if dst = 0#32 then some ⟨.divByZero, BitVec.ofNat 32 src⟩
  else if divisorOf src dst.toNat = 0 then some ⟨.divZero, 0#32⟩
  else if 2 ^ 32 ≤ divisorOf src dst.toNat then
    some ⟨.divOverflow, BitVec.ofNat 32 (divisorOf src dst.toNat)⟩
  else none

/-- Check (f) of R151. -/
def State.divReadyRejection (s : State) (d : Dom) (main : Path) (auxsrc : BitVec 3) : Option Rejection :=
  if d.twoStage then s.twoStageReadyRejection d main auxsrc
  else if s.auxReady auxsrc then none
  else some ⟨.muxSrcUnconfigured, auxsrc.setWidth 32⟩

/-- STEP 0 of DIV_APPLY (R151, R152): the divisor and the stored divisor `old` are kept. -/
def startDiv (dom : BitVec 3) (main : Path) (auxsrc : BitVec 3) (src : Nat) (dst : Word) (s : State) : Micro :=
  match Dom.ofIndex dom.toNat with
  | none => .reject ⟨.badOperand, dom.setWidth 32⟩
  | some d =>
    match divOperandRejection d main auxsrc with
    | some r => .reject r
    | none =>
      match divisorRejection src dst with
      | some r => .reject r
      | none =>
        match s.divReadyRejection d main auxsrc with
        | some r => .reject r
        | none =>
          .cont ((s.keep (.div d main auxsrc src (BitVec.ofNat 32 (divisorOf src dst.toNat)) (s.dom d).div
            false 0 0)).goto 1#8)

/-- The length of the Settle of G2 (R153). -/
def State.settleLength (s : State) (d : Dom) : Nat :=
  if (s.dom d).enableOf d then settleCycles s.params (s.dom .sys).hz.toNat (s.dom d).hz.toNat else 0

/-- G1 (R153); `w` is the hidden state that remembers the length of the Settle. -/
def gatedG1 (d : Dom) (w : Work) (k : BitVec 8) (s : State) : Micro :=
  .cont (((s.writeEnable d false).keep w).goto k)

/-- One step of G2, `Settle(n)` with `left` idle steps to go (R153, R158); `w` is the hidden state with one
idle step fewer. The step that ends the Settle records it in the trace (log entry 6). -/
def gatedG2 (n left : Nat) (w : Work) (k : BitVec 8) (s : State) : Micro :=
  if left ≤ 1 then .cont ((s.traced (.settle n)).goto k) else .cont (s.keep w)

/-- G3 (R153). -/
def gatedG3 (d : Dom) (auxsrc : BitVec 3) (k : BitVec 8) (s : State) : Micro :=
  .cont ((s.writeAuxsrc d auxsrc).goto k)

/-- G4 (R153). -/
def gatedG4 (d : Dom) (k : BitVec 8) (s : State) : Micro := .cont ((s.writeEnable d true).goto k)

/-- The records of domain d that STEP 8 latches (R152): DOM_HZ[d] and DOM_VALID[d]. -/
def State.describeDom (s : State) (d : Dom) (hz : Word) : State :=
  s.setDom d { s.dom d with hz := hz, valid := true }

/-- STEP 1 to 8 of DIV_APPLY (R152). STEP 8 writes x[5] mod 2^32, as 00_scope.md R7 says, and DOM_HZ[d] with
`domHzOf`, whose value at 2^32 Hz or more is the model's choice (log entry 27). -/
def divStep (d : Dom) (main : Path) (auxsrc : BitVec 3) (src : Nat) (div old : Word) (stepped : Bool)
    (settle left : Nat) (k : Nat) (s : State) : Micro :=
  match k with
  | 1 => if old < div then .cont ((s.regWrite (.clkDiv d) div).goto 2#8) else .cont (s.goto 2#8)
  | 2 =>
    if d.twoStage then muxM1 d main (.div d main auxsrc src div old true settle left) 3#8 s
    else gatedG1 d (.div d main auxsrc src div old stepped (s.settleLength d) (s.settleLength d)) 3#8 s
  | 3 =>
    if d.twoStage then muxM2 d stepped 4#8 s
    else gatedG2 settle left (.div d main auxsrc src div old stepped settle (left - 1)) 4#8 s
  | 4 => if d.twoStage then muxM3 d main auxsrc 5#8 s else gatedG3 d auxsrc 5#8 s
  | 5 => if d.twoStage then muxM4 d main 6#8 s else gatedG4 d 6#8 s
  | 6 => if d.twoStage then muxM5 d main 7#8 s else .cont (s.goto 7#8)
  | 7 => .cont ((s.regWrite (.clkDiv d) div).goto 8#8)
  | 8 =>
    .finish (s.describeDom d (domHzOf src div))
      [(4, div), (5, BitVec.ofNat 32 (achievedHz src div))]
  | _ => .stray

/-- One micro-operation of `apply(domain, source_freq, dest_freq)` (R152). -/
def runDiv (dom : BitVec 3) (main : Path) (auxsrc : BitVec 3) (src : Nat) (dst : Word) (s : State) : Micro :=
  if s.step = 0#8 then startDiv dom main auxsrc src dst s
  else
    match s.work with
    | .div d main' auxsrc' src' div old stepped settle left =>
      divStep d main' auxsrc' src' div old stepped settle left s.step.toNat s
    | _ => .stray

/-- DIV_APPLY (R152): source_freq is x[0], dest_freq x[1]; the results go to x[4] and x[5]. -/
def execDivApply (dom : BitVec 3) (main : Path) (auxsrc : BitVec 3) (s : State) :
    Host.Outcome State Fault Refusal :=
  s.command false 0x50#8 (0#1 ++ dom) (runDiv dom main auxsrc (s.xr 0).toNat (s.xr 1) s)

end Sys2Proof.Machine
end

