-- ==== Sys2Proof/Machine/FrequencyCounter.lean ====
section
/-! DEFINITION. The FrequencyCounter: FC_MEASURE (45_frequency_counter.md R170 to R173). -/

namespace Sys2Proof.Machine

/-- The window W for a stated reference (R171 (b), R174). -/
def windowOf (refKhz : Word) (interval : BitVec 4) : Nat := (refKhz.toNat <<< interval.toNat) / 1000

/-- STEP 0 of FC_MEASURE (R171, R172). -/
def startFc (src : BitVec 8) (refKhz : Word) (s : State) : Micro :=
  if src = 0#8 ∨ 10 < src.toNat then .reject ⟨.fcParam, src.setWidth 32⟩
  else if windowOf refKhz s.params.fcIntervalFixed = 0 then .reject ⟨.fcParam, refKhz⟩
  else .cont ((s.keep (.fc src refKhz)).goto 1#8)

/-- The hidden state of a measurement does not outlive its command (10_state.md R43). -/
def Counter.forget (c : Counter) : Counter := { c with window := 0, edges := 0, measured := 0#8 }

/-- STEP 1 to 8 of FC_MEASURE (R172). -/
def fcStep (src : BitVec 8) (refKhz : Word) (k : Nat) (s : State) : Micro :=
  match k with
  | 1 => s.wait .fcIdle .fcStatus (fun v => !v.getLsbD 0) 2#8
  | 2 => .cont ((s.regWrite .fcRefKhz refKhz).goto 3#8)
  | 3 => .cont ((s.regWrite .fcInterval (s.params.fcIntervalFixed.setWidth 32)).goto 4#8)
  | 4 => .cont ((s.regWrite .fcMinKhz 0#32).goto 5#8)
  | 5 => .cont ((s.regWrite .fcMaxKhz 0xFFFFFFFF#32).goto 6#8)
  | 6 => .cont ((s.regWrite .fcSrc (src.setWidth 32)).goto 7#8)
  | 7 => s.wait .fcDone .fcStatus (fun v => v.getLsbD 1) 8#8
  | 8 => .finish { s with fc := s.fc.forget } [(4, s.regRead .fcResult), (5, s.regRead .fcStatus)]
  | _ => .stray

/-- One micro-operation of `measure(source_id, reference_khz)` (R172). -/
def runFc (src : BitVec 8) (refKhz : Word) (s : State) : Micro :=
  if s.step = 0#8 then startFc src refKhz s
  else
    match s.work with
    | .fc src' refKhz' => fcStep src' refKhz' s.step.toNat s
    | _ => .stray

/-- FC_MEASURE (R172): reference_khz is x[0], the results go to x[4] and x[5]; Ready accepts it
(30_encoding.md R87). -/
def execFcMeasure (src : BitVec 8) (s : State) : Host.Outcome State Fault Refusal :=
  s.command true 0x60#8 0#4 (runFc src (s.xr 0) s)

end Sys2Proof.Machine
end

