-- ==== Sys2Proof/Machine/Oscillator.lean ====
section
/-! DEFINITION. The OscillatorDriver: OSC_START (41_oscillator.md R110 to R113). -/

namespace Sys2Proof.Machine

/-- `startup_delay(f) = ceil(f / 256000)`, f in Hz (R112). -/
def startupDelay (f : Nat) : Nat := (f + 255999) / 256000

/-- STEP 0 of OSC_START (R111). -/
def startOsc (f : Word) (s : State) : Micro :=
  if s.osc.enable then .reject ⟨.locked, s.regRead .oscCtrl⟩
  else if f.toNat < s.params.oscMinHz ∨ s.params.oscMaxHz < f.toNat then .reject ⟨.oscRange, f⟩
  else if 0xFFFF < startupDelay f.toNat then .reject ⟨.oscRange, BitVec.ofNat 32 (startupDelay f.toNat)⟩
  else .cont ((s.keep (.osc f (BitVec.ofNat 16 (startupDelay f.toNat)))).goto 1#8)

/-- The latch of OSC_FREQ at one of the two places the spec gives for it: done where the parameter says so. -/
def State.latchOscFreq (s : State) (place : Config.OscFreqLatch) (f : Word) : State :=
  { s with oscFreq := if s.params.oscFreqLatch = place then f else s.oscFreq }

/-- STEP 1 to 5 of OSC_START (R111). R111 lists the latch of OSC_FREQ in STEP 3, before the Wait;
70_reset_and_hazards.md R249 has the description registers written with Complete, older while BUSY = 1 and kept
by a Fatal. No ruling settles the two, and the model has both, by parameter. DESIGN CHOICE: log entry 28. -/
def oscStep (f : Word) (delay : BitVec 16) (k : Nat) (s : State) : Micro :=
  match k with
  | 1 => .cont ((s.regWrite .oscStatus 0x01000000#32).goto 2#8)
  | 2 => .cont ((s.regWrite .oscCtrl 0x00000100#32).goto 3#8)
  | 3 => .cont (((s.regWrite .oscStartup (delay.setWidth 32)).latchOscFreq .beforeWait f).goto 4#8)
  | 4 => s.wait .oscStable .oscStatus (fun v => v.getLsbD 31) 5#8
  | 5 => .finish (s.latchOscFreq .atComplete f) [(4, s.regRead .oscStatus), (5, delay.setWidth 32)]
  | _ => .stray

/-- One micro-operation of `start(frequency)` (R111). -/
def runOsc (f : Word) (s : State) : Micro :=
  if s.step = 0#8 then startOsc f s
  else
    match s.work with
    | .osc kept delay => oscStep kept delay s.step.toNat s
    | _ => .stray

/-- OSC_START (R111): the frequency is x[0], the results go to x[4] and x[5]. -/
def execOscStart (s : State) : Host.Outcome State Fault Refusal :=
  s.command false 0x20#8 0#4 (runOsc (s.xr 0) s)

end Sys2Proof.Machine
end

