-- ==== Sys2Proof/Machine/PllEngine.lean ====
section
/-! DEFINITION. The PllEngine: the feedback/post-divider solver and PLL_CFG (42_pll_engine.md R120 to R127). -/

namespace Sys2Proof.Machine

/-- `ref_hz = OSC_FREQ div REFDIV` (R121). -/
def refHz (oscFreq : Word) (refdiv : BitVec 6) : Nat := oscFreq.toNat / refdiv.toNat

/-- `fbdiv = target_vco div ref_hz` (R121). -/
def solveFbdiv (oscFreq : Word) (refdiv : BitVec 6) (targetVco : Word) : Nat :=
  targetVco.toNat / refHz oscFreq refdiv

/-- `vco_hz = ref_hz * fbdiv` (R126). -/
def solveVcoHz (oscFreq : Word) (refdiv : BitVec 6) (targetVco : Word) : Nat :=
  refHz oscFreq refdiv * solveFbdiv oscFreq refdiv targetVco

/-- A post divider outside [`POSTDIV_MIN`, `POSTDIV_MAX`] (R123 (a)). -/
def State.badPostdiv (s : State) (pd : BitVec 3) : Bool :=
  decide (pd.toNat < s.params.postdivMin) || decide (s.params.postdivMax < pd.toNat)

/-- The checks (a) to (e) of R123 in order: the first that fails. -/
def State.pllRejection (s : State) (p : PllId) (refdiv : BitVec 6) (pd1 pd2 : BitVec 3) (targetVco : Word) :
    Option Rejection :=
  if refdiv = 0#6 ∨ s.params.refdivMax < refdiv.toNat then some ⟨.pllParam, refdiv.setWidth 32⟩
  else if s.badPostdiv pd1 then some ⟨.pllParam, pd1.setWidth 32⟩
  else if s.badPostdiv pd2 then some ⟨.pllParam, pd2.setWidth 32⟩
  else if refHz s.oscFreq refdiv = 0 then some ⟨.divByZero, s.oscFreq⟩
  else if solveFbdiv s.oscFreq refdiv targetVco < Config.fbdivMin ∨
      Config.fbdivMax < solveFbdiv s.oscFreq refdiv targetVco then
    some ⟨.fbdivRange, BitVec.ofNat 32 (solveFbdiv s.oscFreq refdiv targetVco)⟩
  else if solveVcoHz s.oscFreq refdiv targetVco < s.params.vcoMinHz ∨
      s.params.vcoMaxHz < solveVcoHz s.oscFreq refdiv targetVco then
    some ⟨.vcoBand, BitVec.ofNat 32 (solveVcoHz s.oscFreq refdiv targetVco)⟩
  else if s.pllInUse p then some ⟨.pllInUse, s.regRead (.pllPwr p)⟩
  else none

/-- STEP 0 of PLL_CFG (R124): the validation of R123, then fbdiv and vco_hz are kept. -/
def startPll (p : PllId) (refdiv : BitVec 6) (pd1 pd2 : BitVec 3) (targetVco : Word) (s : State) : Micro :=
  match s.pllRejection p refdiv pd1 pd2 targetVco with
  | some r => .reject r
  | none =>
    .cont ((s.keep (.pll p refdiv pd1 pd2 (BitVec.ofNat 9 (solveFbdiv s.oscFreq refdiv targetVco))
      (BitVec.ofNat 32 (solveVcoHz s.oscFreq refdiv targetVco)))).goto 1#8)

/-- `out_hz = vco_hz div (PD1 * PD2)` (R126). -/
def pllOutHz (vcoHz : Word) (pd1 pd2 : BitVec 3) : Word :=
  BitVec.ofNat 32 (vcoHz.toNat / (pd1.toNat * pd2.toNat))

/-- The description registers of PLL p that STEP 9 latches (R124). -/
def State.describePll (s : State) (p : PllId) (vcoHz outHz : Word) : State :=
  s.setPll p { s.pll p with vcoHz := vcoHz, outHz := outHz }

/-- STEP 1 to 9 of PLL_CFG (R124). -/
def pllStep (p : PllId) (refdiv : BitVec 6) (pd1 pd2 : BitVec 3) (fbdiv : BitVec 9) (vcoHz : Word) (k : Nat)
    (s : State) : Micro :=
  match k with
  | 1 => .cont ((s.regWrite (.pllPwr p) 0b111#32).goto 2#8)
  | 2 => .cont ((s.regWrite (.pllFbdiv p) 0#32).goto 3#8)
  | 3 => .cont ((s.regWrite (.pllCs p) (refdiv.setWidth 32)).goto 4#8)
  | 4 => .cont ((s.regWrite (.pllFbdiv p) (fbdiv.setWidth 32)).goto 5#8)
  | 5 => .cont ((s.regWrite (.pllPwr p) 0b100#32).goto 6#8)
  | 6 => s.wait .pllLock (.pllCs p) (fun v => v.getLsbD 31) 7#8
  | 7 => .cont ((s.regWrite (.pllPrim p) (0#25 ++ pd2 ++ 0#1 ++ pd1)).goto 8#8)
  | 8 => .cont ((s.regWrite (.pllPwr p) 0b000#32).goto 9#8)
  | 9 =>
    .finish (s.describePll p vcoHz (pllOutHz vcoHz pd1 pd2))
      [(4, fbdiv.setWidth 32), (5, vcoHz), (6, pllOutHz vcoHz pd1 pd2), (7, s.regRead (.pllCs p))]
  | _ => .stray

/-- One micro-operation of `configure(pll, …)` (R124). -/
def runPll (p : PllId) (refdiv : BitVec 6) (pd1 pd2 : BitVec 3) (targetVco : Word) (s : State) : Micro :=
  if s.step = 0#8 then startPll p refdiv pd1 pd2 targetVco s
  else
    match s.work with
    | .pll q refdiv' pd1' pd2' fbdiv vcoHz => pllStep q refdiv' pd1' pd2' fbdiv vcoHz s.step.toNat s
    | _ => .stray

/-- PLL_CFG (R124): target_vco is x[0], the results go to x[4] to x[7]. -/
def execPllCfg (p : PllId) (refdiv : BitVec 6) (pd1 pd2 : BitVec 3) (s : State) :
    Host.Outcome State Fault Refusal :=
  s.command false 0x30#8 (0#3 ++ p.bit) (runPll p refdiv pd1 pd2 (s.xr 0) s)

end Sys2Proof.Machine
end

