-- ==== Sys2Proof/Machine/Reset.lean ====
section
/-! DEFINITION. The ResetController: RST_HOLD and RST_RELEASE (40_reset_controller.md R100 to R102). -/

namespace Sys2Proof.Machine

/-- STEP 0 of RST_HOLD (R101). -/
def startHold (set : Word) (s : State) : Micro :=
  if set &&& ~~~s.params.periphAll ≠ 0#32 then .reject ⟨.badOperand, set &&& ~~~s.params.periphAll⟩
  else .cont ((s.keep (.hold set)).goto 1#8)

/-- STEP 1 and 2 of RST_HOLD (R101). -/
def holdStep (set : Word) (k : Nat) (s : State) : Micro :=
  match k with
  | 1 => .cont ((s.regWrite .rstCtrl (s.regRead .rstCtrl ||| set)).goto 2#8)
  | 2 => .finish s [(4, s.regRead .rstCtrl)]
  | _ => .stray

/-- One micro-operation of `hold(set)` (R101). -/
def runHold (set : Word) (s : State) : Micro :=
  if s.step = 0#8 then startHold set s
  else
    match s.work with
    | .hold kept => holdStep kept s.step.toNat s
    | _ => .stray

/-- STEP 0 of RST_RELEASE (R102): BAD_OPERAND, then RESET_DEP. -/
def startRelease (set : Word) (s : State) : Micro :=
  if set &&& ~~~s.params.periphAll ≠ 0#32 then .reject ⟨.badOperand, set &&& ~~~s.params.periphAll⟩
  else if set &&& s.unreleasable ≠ 0#32 then .reject ⟨.resetDep, set &&& s.unreleasable⟩
  else .cont ((s.keep (.release set)).goto 1#8)

/-- STEP 1 to 3 of RST_RELEASE (R102). -/
def releaseStep (set : Word) (k : Nat) (s : State) : Micro :=
  match k with
  | 1 => .cont ((s.regWrite .rstCtrl (s.regRead .rstCtrl &&& ~~~set)).goto 2#8)
  | 2 => s.wait .resetDone .rstDone (fun v => v &&& set == set) 3#8
  | 3 => .finish s [(4, s.regRead .rstDone)]
  | _ => .stray

/-- One micro-operation of `release(set)` (R102). -/
def runRelease (set : Word) (s : State) : Micro :=
  if s.step = 0#8 then startRelease set s
  else
    match s.work with
    | .release kept => releaseStep kept s.step.toNat s
    | _ => .stray

/-- RST_HOLD (R101): the set is x[0], the result goes to x[4]. -/
def execRstHold (s : State) : Host.Outcome State Fault Refusal :=
  s.command false 0x10#8 0#4 (runHold (s.xr 0) s)

/-- RST_RELEASE (R102): the set is x[0], the result goes to x[4]. -/
def execRstRelease (s : State) : Host.Outcome State Fault Refusal :=
  s.command false 0x11#8 0#4 (runRelease (s.xr 0) s)

end Sys2Proof.Machine
end

