-- ==== Sys2Proof/Machine/Bringup.lean ====
section
/-! DEFINITION. The bring-up sequencer: BRINGUP and NOP (46_bringup_sequencer.md R185 to R195). -/

namespace Sys2Proof.Machine

/-- NOP (R185): the state gate, then Complete; Ready accepts it (30_encoding.md R87). -/
def execNop (s : State) : Host.Outcome State Fault Refusal :=
  s.command true 0x00#8 0#4 (if s.step = 0#8 then .finish s [] else .stray)

/-- One micro-operation of an operation. -/
def runOp (o : Op) (s : State) : Micro :=
  match o with
  | .hold set => runHold set s
  | .release set => runRelease set s
  | .osc f => runOsc f s
  | .pll p refdiv pd1 pd2 targetVco => runPll p refdiv pd1 pd2 targetVco s
  | .mux dom main auxsrc => runMux dom main auxsrc s
  | .div dom main auxsrc src dst => runDiv dom main auxsrc src dst s
  | .fc src refKhz => runFc src refKhz s

/-- The record a completed verification measurement leaves (R190): DOM_MEAS_KHZ[d] <- FC_RESULT at
sub-operation 12 + d. -/
def State.recordMeasurement (s : State) (k : Nat) : State :=
  if k < 12 then s
  else
    match Dom.ofIndex (k - 12) with
    | some d => s.setDom d { s.dom d with measKhz := s.fc.result }
    | none => s

/-- The end of BRINGUP (R187): FSM <- 8 Ready; Complete(). -/
def State.bringupEnd (s : State) : State := { s with fsm := .ready }.complete

/-- The end of sub-operation `k` (R187, R188; 10_state.md R12): its record, its FSM value, then the next
sub-operation. SUB never exceeds 17, so the end of the last one is the end of BRINGUP (log entry 8). -/
def State.nextSub (s : State) (k : Nat) : State :=
  if k = 17 then (s.recordMeasurement k).bringupEnd
  else
    { s.recordMeasurement k with
      fsm := fsmAfter k, sub := BitVec.ofNat 8 (k + 1), step := 0#8, pollcnt := 0#32, work := .idle }

/-- The step BRINGUP makes of a micro-operation of sub-operation `k` (R187, R189): no x[i] is written,
Complete is replaced by the next sub-operation, and a rejection is fatal. -/
def State.bringupStep (s : State) (k : Nat) (o : Op) (m : Micro) : Host.Outcome State Fault Refusal :=
  match m with
  | .cont t => .next t
  | .finish t _ => .next (t.nextSub k)
  | .reject r => .next (s.fatal r s.stage o.opcode o.unit)
  | .timeout w v => .next (s.fatal ⟨w.cause, v⟩ s.stage o.opcode o.unit)
  | .stray => .fault (.noSuchMicroOp s.sub s.step)

/-- BRINGUP at its position (R187): the micro-operation of sub-operation SUB, or, without verification, the
end at SUB = 12. -/
def State.bringupAt (s : State) (verify : Bool) : Host.Outcome State Fault Refusal :=
  match s.planOp verify s.sub.toNat with
  | some o => s.bringupStep s.sub.toNat o (runOp o s)
  | none =>
    if verify = false ∧ s.sub = 12#8 ∧ s.step = 0#8 then .next s.bringupEnd
    else .fault (.noSuchMicroOp s.sub s.step)

/-- BRINGUP (R187): the state gate at its first micro-operation (30_encoding.md R87), then its position. -/
def execBringup (verify : Bool) (s : State) : Host.Outcome State Fault Refusal :=
  if s.sub = 0#8 ∧ s.step = 0#8 then s.gate false 0x70#8 0#4 (s.bringupAt verify) else s.bringupAt verify

end Sys2Proof.Machine
end

