-- ==== Sys2Proof/Machine/Dispatch.lean ====
section
/-! DEFINITION. The dispatch: one arm per command, each one call of its meaning. -/

namespace Sys2Proof.Machine

def exec (i : Instr) (s : State) : Host.Outcome State Fault Refusal :=
  match i with
  | .nop => Sys2Proof.Machine.execNop s
  | .rstHold => Sys2Proof.Machine.execRstHold s
  | .rstRelease => Sys2Proof.Machine.execRstRelease s
  | .oscStart => Sys2Proof.Machine.execOscStart s
  | .pllCfg p refdiv pd1 pd2 => Sys2Proof.Machine.execPllCfg p refdiv pd1 pd2 s
  | .muxSwitch dom main auxsrc => Sys2Proof.Machine.execMuxSwitch dom main auxsrc s
  | .divApply dom main auxsrc => Sys2Proof.Machine.execDivApply dom main auxsrc s
  | .fcMeasure src => Sys2Proof.Machine.execFcMeasure src s
  | .bringup verify => Sys2Proof.Machine.execBringup verify s

end Sys2Proof.Machine
end

