-- ==== Sys2Proof/Machine/Clocks.lean ====
section
/-! DEFINITION. The true frequencies (10_state.md R44) as exact fractions of Hz. They are functions of the
state that only the environment reads (R44, R53 to R55). -/

namespace Sys2Proof.Machine

/-- An exact non-negative rational `num / den`, not reduced. A zero denominator stands for no reachable
frequency and counts as a stopped clock (log entry 14). -/
structure Freq where
  num : Nat
  den : Nat
  deriving DecidableEq, Repr

/-- A stopped clock. -/
def Freq.zero : Freq := ⟨0, 1⟩
/-- A whole number of Hz. -/
def Freq.ofHz (n : Nat) : Freq := ⟨n, 1⟩
/-- The frequency times a natural number. -/
def Freq.mul (f : Freq) (n : Nat) : Freq := ⟨f.num * n, f.den⟩
/-- The frequency over a natural number. -/
def Freq.div (f : Freq) (n : Nat) : Freq := ⟨f.num, f.den * n⟩
/-- A true frequency above 0. -/
def Freq.pos (f : Freq) : Bool := decide (0 < f.num) && decide (0 < f.den)

/-- `f_xosc` (R44). -/
def State.fXosc (s : State) : Freq := if s.osc.ready then Freq.ofHz s.params.xtalHz else Freq.zero

/-- `f_vco(p)` (R44). -/
def State.fVco (s : State) (p : PllId) : Freq :=
  if (s.pll p).lock then (s.fXosc.mul (s.pll p).fbdiv.toNat).div (s.pll p).refdiv.toNat else Freq.zero

/-- `f_pll(p)` (R44). -/
def State.fPll (s : State) (p : PllId) : Freq :=
  if (s.pll p).ready then (s.fVco p).div ((s.pll p).postdiv1.toNat * (s.pll p).postdiv2.toNat) else Freq.zero

/-- `aux_in` of a two-stage domain (R44): codes 0 to 2; such a domain never selects code 3 (R35). -/
def State.auxInTwoStage (s : State) (a : BitVec 3) : Freq :=
  match a.toNat with
  | 0 => s.fXosc
  | 1 => s.fPll .sys
  | 2 => s.fPll .aux
  | _ => Freq.zero

/-- The output of a domain whose input is `f` (R44). -/
def Domain.outOf (v : Domain) (f : Freq) : Freq := (f.mul 256).div v.div.toNat

/-- `ref_in(0) = f_boot` (R44). -/
def State.fBoot (s : State) : Freq := Freq.ofHz s.params.bootHz

/-- The input a two-stage domain's main stage has on a path, given its reference-path input (R44). -/
def State.pathIn (s : State) (v : Domain) (refIn : Freq) (p : Path) : Freq :=
  match p with
  | .reference => refIn
  | .auxiliary => s.auxInTwoStage v.auxsrc

/-- `f_out(0)` (R44). -/
def State.fRef (s : State) : Freq := s.doms.ref.outOf (s.pathIn s.doms.ref s.fBoot s.doms.ref.selected)

/-- `f_out(1)` (R44): its reference path is the output of REF. -/
def State.fSys (s : State) : Freq := s.doms.sys.outOf (s.pathIn s.doms.sys s.fRef s.doms.sys.selected)

/-- `aux_in` of a gated domain (R44). -/
def State.auxInGated (s : State) (a : BitVec 3) : Freq :=
  if a = 3#3 then s.fSys else s.auxInTwoStage a

/-- `f_out` of a gated domain (R44). -/
def State.fGated (s : State) (v : Domain) : Freq :=
  v.outOf (if v.enable then s.auxInGated v.auxsrc else Freq.zero)

/-- `f_out(d)` (R44). -/
def State.fOut (s : State) (d : Dom) : Freq :=
  match d with
  | .ref => s.fRef
  | .sys => s.fSys
  | .usb => s.fGated s.doms.usb
  | .adc => s.fGated s.doms.adc
  | .rtc => s.fGated s.doms.rtc
  | .peri => s.fGated s.doms.peri

/-- `ref_in(d)` (R44, R31); a gated domain has none. -/
def State.refIn (s : State) (d : Dom) : Freq :=
  match d with
  | .ref => s.fBoot
  | .sys => s.fRef
  | .usb => Freq.zero
  | .adc => Freq.zero
  | .rtc => Freq.zero
  | .peri => Freq.zero

/-- The true frequency of a frequency-counter source (10_state.md R38). -/
def State.fSource (s : State) (id : BitVec 8) : Freq :=
  match id.toNat with
  | 1 => s.fXosc
  | 2 => s.fPll .sys
  | 3 => s.fPll .aux
  | 4 => s.fOut .ref
  | 5 => s.fOut .sys
  | 6 => s.fOut .usb
  | 7 => s.fOut .adc
  | 8 => s.fOut .rtc
  | 9 => s.fOut .peri
  | 10 => s.fBoot
  | _ => Freq.zero

end Sys2Proof.Machine
end

