-- ==== Sys2Proof/Machine/Environment.lean ====
section
/-! DEFINITION. The environment agent (10_state.md R50 to R55, 45_frequency_counter.md R174). A scheduled step
whose enabling condition does not hold is not taken: the state is unchanged (log entry 10). -/

namespace Sys2Proof.Machine

/-- Reset-done of peripheral p is enabled (R51). -/
def State.canResetDone (s : State) (p : Fin 32) : Bool :=
  !s.rstCtrl.getLsbD p && !s.rstDone.getLsbD p && s.params.periphAll.getLsbD p

/-- Oscillator stable is enabled (R52). -/
def State.canOscStable (s : State) : Bool := s.osc.enable && !s.osc.stable

/-- Lock of PLL p is enabled (R53). -/
def State.canPllLock (s : State) (p : PllId) : Bool :=
  !(s.pll p).corePd && !(s.pll p).vcoPd && decide (Config.fbdivMin ≤ (s.pll p).fbdiv.toNat) &&
    decide ((s.pll p).fbdiv.toNat ≤ Config.fbdivMax) && s.fXosc.pos && !(s.pll p).lock

/-- The flip of CLK_SELECTED[d] is enabled (R54): a two-stage domain with a pending switch, both inputs
running. -/
def State.canMuxFlip (s : State) (d : Dom) : Bool :=
  d.twoStage && (s.dom d).main != (s.dom d).selected &&
    (s.pathIn (s.dom d) (s.refIn d) .reference).pos && (s.pathIn (s.dom d) (s.refIn d) .auxiliary).pos

/-- The completion of the measurement in flight is enabled (R55). -/
def State.canFcDone (s : State) : Bool := s.fc.running && (s.fOut .ref).pos

/-- The exact edge count `x = f_s * W / f_ref` of R174 as a fraction. -/
def edgeCount (fs fref : Freq) (w : Nat) : Freq := ⟨fs.num * w * fref.den, fs.den * fref.num⟩

/-- The count C drawn from floor(x) and ceil(x) (R174). -/
def Freq.round (x : Freq) (up : Bool) : Nat := if up then (x.num + x.den - 1) / x.den else x.num / x.den

/-- `FC_RESULT = min(2^32 - 1, (C * FC_REF_KHZ) div W)` (R174). -/
def scaledResult (c : Nat) (refKhz : Word) (w : Nat) : Word :=
  BitVec.ofNat 32 (min (2 ^ 32 - 1) (c * refKhz.toNat / w))

/-- FC_MIN_KHZ <= FC_RESULT <= FC_MAX_KHZ (R39, R174). -/
def Counter.inBounds (c : Counter) (result : Word) : Bool :=
  decide (c.minKhz ≤ result) && decide (result ≤ c.maxKhz)

/-- The counter after the measurement completes with edge count C (R55, R174). -/
def Counter.finish (c : Counter) (edges : Nat) : Counter :=
  { c with
    edges := edges, result := scaledResult edges c.refKhz c.window, running := false, done := true,
    pass := c.inBounds (scaledResult edges c.refKhz c.window),
    fail := !c.inBounds (scaledResult edges c.refKhz c.window) }

/-- The count C of the measurement in flight for a draw (R174). -/
def State.drawnEdges (s : State) (up : Bool) : Nat :=
  (edgeCount (s.fSource s.fc.measured) (s.fOut .ref) s.fc.window).round up

/-- One step of the environment, if it is enabled (R50 to R55). -/
def State.envStep (s : State) (e : EnvStep) : State :=
  match e with
  | .resetDone p => if s.canResetDone p then { s with rstDone := s.rstDone ||| (1#32 <<< p.val) } else s
  | .oscStable => if s.canOscStable then { s with osc := { s.osc with stable := true } } else s
  | .pllLock p => if s.canPllLock p then s.setPll p { s.pll p with lock := true } else s
  | .muxFlip d => if s.canMuxFlip d then s.setDom d { s.dom d with selected := (s.dom d).main } else s
  | .fcDone up => if s.canFcDone then { s with fc := s.fc.finish (s.drawnEdges up) } else s

end Sys2Proof.Machine
end

