-- ==== Sys2Proof/Machine/HostPort.lean ====
section
/-! DEFINITION. The host's bus port (20_memory.md R60 to R67). -/

namespace Sys2Proof.Machine

/-- The engine accepts host writes: BUSY = 0 and FSM ≠ Failed (20_memory.md R64). -/
def State.acceptsWrites (s : State) : Bool := !s.busy && s.fsm != .failed

/-- A dropped write: OVERRUN is set, nothing else changes (R64). -/
def State.dropWrite (s : State) : State := { s with overrun := true }

/-- The host's write of `v` to a register (R64): CMD, X0 to X7, WAIT_LIMIT and STATUS act, every other
register ignores it. -/
def State.hostWrite (s : State) (r : Reg) (v : Word) : State :=
  match r with
  | .cmd => if s.acceptsWrites then s.issue v else s.dropWrite
  | .x i => if s.acceptsWrites then s.setX i v else s.dropWrite
  | .waitLimit => if s.acceptsWrites then { s with waitLimit := v } else s.dropWrite
  | .status => if v.getLsbD 3 then { s with overrun := false } else s
  | _ => s

/-- The host's write of `v` at an offset (R64, R65): an unmapped offset ignores it. -/
def State.hostWriteAt (s : State) (o : Nat) (v : Word) : State :=
  match Reg.ofOffset o with
  | some r => s.hostWrite r v
  | none => s

/-- The offset of a platform address from `CBE_BASE` (R60). -/
def State.offsetOf (s : State) (addr : Word) : Nat := (addr - s.params.cbeBase).toNat

/-- The access is an aligned 32-bit one (R61, R62). -/
def supportedAccess (o n : Nat) : Bool := n == 4 && o % 4 == 0

/-- One host access (R61 to R65): outside the 4 KiB space it is not this block's; an unsupported access is
refused with a bus error and no other effect; a read answers the register's value. `busReply` is the model's
record of the answer (log entry 15). -/
def State.hostAccess (s : State) (a : HostAccess) : State :=
  match a with
  | .read addr n =>
    if 0x1000 ≤ s.offsetOf addr then s
    else if supportedAccess (s.offsetOf addr) n then { s with busReply := .data (s.wordAt (s.offsetOf addr)) }
    else { s with busReply := .busError }
  | .write addr n v =>
    if 0x1000 ≤ s.offsetOf addr then s
    else if supportedAccess (s.offsetOf addr) n then
      { s.hostWriteAt (s.offsetOf addr) v with busReply := .ack }
    else { s with busReply := .busError }

end Sys2Proof.Machine
end

