-- ==== Sys2Proof/Machine/Engine.lean ====
section
/-! DEFINITION. One move of one agent (20_memory.md R69). -/

namespace Sys2Proof.Machine

/-- The engine has a micro-operation to execute: a command is in flight and the block is not Failed
(10_state.md R13, 60_exceptions.md R202, 70_reset_and_hazards.md R231). -/
def State.engineActive (s : State) : Bool := s.busy && s.fsm != .failed

/-- One engine step (30_encoding.md R86): the latched word is decoded first, and an illegal one is rejected
(R84); otherwise the command's micro-operation runs. An idle engine does nothing (70_reset_and_hazards.md
R231). -/
def State.engineStep (s : State) : Host.Outcome State Fault Refusal :=
  if s.engineActive then
    match decode s.fetch with
    | .ok i => exec i s
    | .error _ => .next s.rejectIllegal
  else .next s

/-- One move (20_memory.md R69). -/
def State.move (s : State) (m : Move) : Host.Outcome State Fault Refusal :=
  match m with
  | .engine => s.engineStep
  | .env e => .next (s.envStep e)
  | .host a => .next (s.hostAccess a)

/-- The state with no move taken from the schedule, or the first one taken. -/
def State.takeMove (s : State) : Move × State :=
  match s.schedule with
  | [] => (.engine, s)
  | m :: rest => (m, { s with schedule := rest })

/-- The schedule after an engine move is put first; an empty schedule already begins with one. -/
def engineFirst (ms : List Move) : List Move :=
  match ms with
  | [] => []
  | m :: rest => .engine :: m :: rest

end Sys2Proof.Machine
end

