-- ==== Sys2Proof/Machine/Step.lean ====
section
/-! DEFINITION. The step of the block: the next move of the schedule (20_memory.md R69, log entry 1). -/

namespace Sys2Proof.Machine

/-- One step: the first move of the schedule, or an engine move when the schedule is empty. -/
def step (s : State) : Host.Outcome State Fault Refusal := s.takeMove.2.move s.takeMove.1

/-- The state in which the table's word has just been issued as a command and the engine moves next: what an
accepted host write of CMD leaves (30_encoding.md R86, 20_memory.md R71; log entry 2). -/
def State.withFetchWord (s : State) (nbits w : Nat) : State :=
  { s.issue (tableWord nbits w) with schedule := engineFirst s.schedule }

end Sys2Proof.Machine
end

