-- ==== Sys2Proof/Safety.lean ====
section
/-! DEFINITION. What a good state of the block is, in the terms the statements use: the position a command can
be at (10_state.md R12, R43), and the invariants of 10_state.md R47 and of the rules that name a property "in
every reachable state" (R16, R22, R25, R29, R33, R43 (d), R125, R173, R191). Each is inductive: it says of the
command in flight what it needs to be kept by every step. -/

namespace Sys2Proof.Machine

/-! ### The position of a command -/

/-- The operation a command runs at a state: its own, or the sub-operation SUB of BRINGUP; NOP has none. -/
def State.opOf (s : State) (i : Instr) : Option Op :=
  match i with
  | .nop => none
  | .rstHold => some (.hold (s.xr 0))
  | .rstRelease => some (.release (s.xr 0))
  | .oscStart => some (.osc (s.xr 0))
  | .pllCfg p refdiv pd1 pd2 => some (.pll p refdiv pd1 pd2 (s.xr 0))
  | .muxSwitch dom main auxsrc => some (.mux dom main auxsrc)
  | .divApply dom main auxsrc => some (.div dom main auxsrc (s.xr 0).toNat (s.xr 1))
  | .fcMeasure src => some (.fc src (s.xr 0))
  | .bringup verify => s.planOp verify s.sub.toNat

/-- The last micro-operation of an operation (10_state.md R12: STEP is at most 9). -/
def Op.lastStep : Op → Nat
  | .hold _ => 2
  | .release _ => 3
  | .osc _ => 5
  | .pll _ _ _ _ _ => 9
  | .mux _ _ _ => 6
  | .div _ _ _ _ _ => 8
  | .fc _ _ => 8

/-- The hidden state `w` holds the operands of operation `o` (10_state.md R43 (b), 20_memory.md R71). -/
def Op.latchedIn (o : Op) (w : Work) : Prop :=
  match o, w with
  | .hold set, .hold set' => set' = set
  | .release set, .release set' => set' = set
  | .osc f, .osc f' _ => f' = f
  | .pll p refdiv pd1 pd2 _, .pll p' refdiv' pd1' pd2' _ _ => p' = p ∧ refdiv' = refdiv ∧ pd1' = pd1 ∧ pd2' = pd2
  | .mux dom main auxsrc, .mux d main' auxsrc' _ =>
    Dom.ofIndex dom.toNat = some d ∧ d.twoStage = true ∧ main' = main ∧ auxsrc' = auxsrc
  | .div dom main auxsrc src _, .div d main' auxsrc' src' _ _ _ _ _ =>
    Dom.ofIndex dom.toNat = some d ∧ main' = main ∧ auxsrc' = auxsrc ∧ src' = src
  | .fc src refKhz, .fc src' refKhz' => src' = src ∧ refKhz' = refKhz
  | _, _ => False

/-- The state is at a micro-operation of `o`: at its first with nothing latched, or at a later one with its
operands latched. -/
def Op.inFlight (o : Op) (s : State) : Prop :=
  (s.step = 0#8 ∧ s.work = .idle) ∨ (s.step ≠ 0#8 ∧ s.step.toNat ≤ o.lastStep ∧ o.latchedIn s.work)

/-- The commands Ready accepts (30_encoding.md R87). -/
def acceptedInReady : Instr → Bool
  | .nop => true
  | .rstHold => false
  | .rstRelease => false
  | .oscStart => false
  | .pllCfg _ _ _ _ => false
  | .muxSwitch _ _ _ => false
  | .divApply _ _ _ => false
  | .fcMeasure _ => true
  | .bringup _ => false

/-- FSM while sub-operation `k` of BRINGUP runs (46_bringup_sequencer.md R187). -/
def fsmDuring (k : Nat) : Fsm :=
  match k with
  | 0 => .powerOnReset
  | n + 1 => fsmAfter n

/-- A command has just been issued: nothing is latched and FSM is one of the two in which the engine is idle. -/
def State.justIssued (s : State) : Prop :=
  s.sub = 0#8 ∧ s.step = 0#8 ∧ s.work = .idle ∧ (s.fsm = .powerOnReset ∨ s.fsm = .ready)

/-- BRINGUP is past its state gate (46_bringup_sequencer.md R187). -/
def State.inBringup (s : State) (verify : Bool) : Prop :=
  s.fsm = fsmDuring s.sub.toNat ∧
    match s.planOp verify s.sub.toNat with
    | some o => o.inFlight s
    | none => verify = false ∧ s.sub = 12#8 ∧ s.step = 0#8 ∧ s.work = .idle

/-- A command of its own is past its state gate (30_encoding.md R87). -/
def State.inCommand (s : State) (i : Instr) : Prop :=
  s.sub = 0#8 ∧ (s.fsm = .powerOnReset ∨ (s.fsm = .ready ∧ acceptedInReady i = true)) ∧
    match s.opOf i with
    | some o => o.inFlight s
    | none => s.step = 0#8 ∧ s.work = .idle

/-- The state is at a micro-operation of instruction `i`. -/
def State.atInstr (s : State) (i : Instr) : Prop :=
  match i with
  | .bringup verify => s.justIssued ∨ s.inBringup verify
  | .nop => s.justIssued ∨ s.inCommand .nop
  | .rstHold => s.justIssued ∨ s.inCommand .rstHold
  | .rstRelease => s.justIssued ∨ s.inCommand .rstRelease
  | .oscStart => s.justIssued ∨ s.inCommand .oscStart
  | .pllCfg p refdiv pd1 pd2 => s.justIssued ∨ s.inCommand (.pllCfg p refdiv pd1 pd2)
  | .muxSwitch dom main auxsrc => s.justIssued ∨ s.inCommand (.muxSwitch dom main auxsrc)
  | .divApply dom main auxsrc => s.justIssued ∨ s.inCommand (.divApply dom main auxsrc)
  | .fcMeasure src => s.justIssued ∨ s.inCommand (.fcMeasure src)

/-- The position invariant (10_state.md R12, R47 (d), (e)): an idle engine is at position 0 with nothing latched
and FSM one of PowerOnReset, Ready, Failed; a busy one is not Failed and is at a micro-operation of the latched
command. -/
structure State.Positioned (s : State) : Prop where
  idle : s.busy = false → s.sub = 0#8 ∧ s.step = 0#8 ∧ s.pollcnt = 0#32 ∧ s.work = .idle
  idleFsm : s.busy = false → s.fsm = .powerOnReset ∨ s.fsm = .ready ∨ s.fsm = .failed
  busyFsm : s.busy = true → s.fsm ≠ .failed
  busyAt : s.busy = true →
    match decode s.fetch with
    | .ok i => s.atInstr i
    | .error _ => s.justIssued

/-! ### Field values -/

/-- The values an operation keeps for its later micro-operations are ones the engine may store. -/
def Work.legal (w : Work) : Prop :=
  match w with
  | .pll _ _ _ _ fbdiv _ => 16 ≤ fbdiv.toNat ∧ fbdiv.toNat ≤ 320
  | .mux d _ auxsrc _ => d.twoStage = true ∧ auxsrc.toNat ≤ 2
  | .div d main auxsrc _ divisor _ _ _ _ =>
    256 ≤ divisor.toNat ∧ (auxsrc.toNat ≤ if d.twoStage then 2 else 3) ∧ (d.twoStage = false → main = .auxiliary)
  | _ => True

/-- The values the engine may store (10_state.md R24, R29, R33, R35; R47 (a), (b)). -/
structure State.Ranges (s : State) : Prop where
  clkDiv : ∀ d, 256 ≤ (s.dom d).div.toNat
  fbdiv : ∀ p, (s.pll p).fbdiv = 0#9 ∨ (16 ≤ (s.pll p).fbdiv.toNat ∧ (s.pll p).fbdiv.toNat ≤ 320)
  oscRange : s.osc.range = 0#4
  auxsrc : ∀ d, (s.dom d).auxsrc.toNat ≤ if d.twoStage then 2 else 3
  kept : s.work.legal

/-- The reset lines (10_state.md R22, R23, R51): only peripherals of `PERIPH_ALL` are held or done, and none is
both. -/
structure State.ResetLines (s : State) : Prop where
  held : s.rstCtrl &&& ~~~s.params.periphAll = 0#32
  done : s.rstDone &&& ~~~s.params.periphAll = 0#32
  exclusive : s.rstDone &&& s.rstCtrl = 0#32

/-! ### The invariants of R47 (f) and (g), R125, R173, R43 (d), R16 -/

/-- What RST_RELEASE has checked for the set it keeps (40_reset_controller.md R102). -/
def State.releaseChecked (s : State) : Prop :=
  match s.work with
  | .release set => ∀ p d, clockDep p = some d → set.getLsbD p = true → (s.dom d).valid = true
  | _ => True

/-- The ResetMask invariant (10_state.md R47 (f)). -/
structure State.ResetMask (s : State) : Prop where
  released : ∀ p d, clockDep p = some d → s.rstCtrl.getLsbD p = false → (s.dom d).valid = true
  checked : s.releaseChecked

/-- What an operation in flight needs so that no clock in use becomes unconfigured: a switch in flight goes to a
configured source, which AUXSRC holds when the source is selected or enabled; a PLL being configured is not in
use. -/
def State.sourceChecked (s : State) : Prop :=
  match s.work with
  | .pll p _ _ _ _ _ => s.pllInUse p = false
  | .mux d main auxsrc _ =>
    main = .auxiliary → s.auxReady auxsrc = true ∧ (s.step = 4#8 → (s.dom d).auxsrc = auxsrc)
  | .div d main auxsrc _ _ _ _ _ _ =>
    (d.twoStage = false → main = .auxiliary) ∧
      (main = .auxiliary → s.auxReady auxsrc = true ∧ (s.step = 5#8 → (s.dom d).auxsrc = auxsrc))
  | _ => True

/-- No clock in use is unconfigured (10_state.md R47 (g)); a domain uses its auxiliary input as soon as it
requests it. -/
structure State.AuxReady (s : State) : Prop where
  used : ∀ d, (s.dom d).usesAux d = true → s.auxReady (s.dom d).auxsrc = true
  checked : s.sourceChecked

/-- What a PLL_CFG in flight has reached (42_pll_engine.md R124). -/
def State.lockStage (s : State) : Prop :=
  match s.work with
  | .pll p _ _ _ fbdiv _ =>
    fbdiv ≠ 0#9 ∧ (2 ≤ s.step.toNat → s.step.toNat ≤ 8 → (s.pll p).postdivPd = true) ∧
      (7 ≤ s.step.toNat → (s.pll p).lock = true) ∧ (9 ≤ s.step.toNat → (s.pll p).postdivPd = false)
  | _ => True

/-- The lock order (42_pll_engine.md R125, 10_state.md R53): a PLL whose post-divider domain is up is locked, and a
locked PLL has its core and VCO up, a feedback divider and a running crystal. -/
structure State.LockOrder (s : State) : Prop where
  output : ∀ p, (s.pll p).postdivPd = false → (s.pll p).lock = true
  locked : ∀ p, (s.pll p).lock = true →
    (s.pll p).corePd = false ∧ (s.pll p).vcoPd = false ∧ (s.pll p).fbdiv ≠ 0#9 ∧ s.osc.ready = true
  stage : s.lockStage

/-- FC_MEASURE is at its second Wait (45_frequency_counter.md R172). -/
def State.measuring (s : State) : Prop :=
  match s.work with
  | .fc _ _ => s.step = 7#8
  | _ => False

/-- At most one measurement is in flight, and only inside FC_MEASURE's second Wait or in the Failed state
(45_frequency_counter.md R173). -/
structure State.CounterOwned (s : State) : Prop where
  running : s.fc.running = true → s.fsm = .failed ∨ (s.busy = true ∧ s.measuring)
  notDone : s.fc.running = true → s.fc.done = false

/-- A mux sequence in flight is at the Wait of domain `d`'s switch, and waits for the path that is requested
(43_clock_mux.md R142: M2, M5). -/
def State.switching (s : State) (d : Dom) : Prop :=
  match s.work with
  | .mux d' main _ stepped =>
    d' = d ∧ ((s.step = 2#8 ∧ stepped = true ∧ (s.dom d).main = .reference) ∨ (s.step = 5#8 ∧ (s.dom d).main = main))
  | .div d' main _ _ _ _ stepped _ _ =>
    d' = d ∧ ((s.step = 3#8 ∧ stepped = true ∧ (s.dom d).main = .reference) ∨ (s.step = 6#8 ∧ (s.dom d).main = main))
  | _ => False

/-- A pending main-stage switch belongs to the Wait of the mux sequence in flight, or to the Failed state
(10_state.md R43 (d)). -/
def State.SwitchOwned (s : State) : Prop :=
  ∀ d, d.twoStage = true → (s.dom d).main ≠ (s.dom d).selected →
    s.fsm = .failed ∨ (s.busy = true ∧ s.switching d)

/-- A mux sequence that goes to an auxiliary source has stepped back to the reference path before it changes AUXSRC
(43_clock_mux.md R142: M1 before M3 and M4), and a gated sequence has disabled its domain (44_clock_divider.md R153: G1
before G3 and G4). -/
def State.SteppedBack (s : State) : Prop :=
  match s.work with
  | .mux d main _ _ => main = .auxiliary → 2 ≤ s.step.toNat → s.step.toNat ≤ 4 → (s.dom d).main = .reference
  | .div d main _ _ _ _ _ _ _ =>
    3 ≤ s.step.toNat → s.step.toNat ≤ 5 →
      if d.twoStage then main = .auxiliary → (s.dom d).main = .reference else (s.dom d).enable = false
  | _ => True

/-- The micro-operation at the position is a Wait that polls (40_reset_controller.md R102, 41_oscillator.md R111,
42_pll_engine.md R124, 43_clock_mux.md R142, 44_clock_divider.md R152, 45_frequency_counter.md R172). -/
def State.atWait (s : State) : Bool :=
  match s.work with
  | .idle => false
  | .hold _ => false
  | .release _ => s.step == 2#8
  | .osc _ _ => s.step == 4#8
  | .pll _ _ _ _ _ _ => s.step == 6#8
  | .mux _ _ _ stepped => (s.step == 2#8 && stepped) || s.step == 5#8
  | .div d _ _ _ _ _ stepped _ _ => d.twoStage && ((s.step == 3#8 && stepped) || s.step == 6#8)
  | .fc _ _ => s.step == 1#8 || s.step == 7#8

/-- The Wait at the position of the operation in flight: its id, the polled register, and its predicate as "the bits of
`mask` read `val`" (40_reset_controller.md R102 STEP 2, 41_oscillator.md R111 STEP 4, 42_pll_engine.md R124 STEP 6,
43_clock_mux.md R142 M2 and M5 at their STEPs of R143 and 44_clock_divider.md R152, 45_frequency_counter.md R172 STEP 1
and 7). -/
def State.awaited (s : State) : Option (WaitId × Reg × Word × Word) :=
  match s.work, s.step.toNat with
  | .release set, 2 => some (.resetDone, .rstDone, set, set)
  | .osc _ _, 4 => some (.oscStable, .oscStatus, 0x80000000#32, 0x80000000#32)
  | .pll p _ _ _ _ _, 6 => some (.pllLock, .pllCs p, 0x80000000#32, 0x80000000#32)
  | .mux d _ _ true, 2 => some (.muxSelected, .clkSelected d, 0xFFFFFFFF#32, 0b01#32)
  | .mux d main _ _, 5 => some (.muxSelected, .clkSelected d, 0xFFFFFFFF#32, selectedWord main)
  | .div d _ _ _ _ _ true _ _, 3 =>
    if d.twoStage then some (.muxSelected, .clkSelected d, 0xFFFFFFFF#32, 0b01#32) else none
  | .div d main _ _ _ _ _ _ _, 6 =>
    if d.twoStage then some (.muxSelected, .clkSelected d, 0xFFFFFFFF#32, selectedWord main) else none
  | .fc _ _, 1 => some (.fcIdle, .fcStatus, 0b01#32, 0b00#32)
  | .fc _ _, 7 => some (.fcDone, .fcStatus, 0b10#32, 0b10#32)
  | _, _ => none

/-- POLLCNT is 0 whenever no Wait is in progress (10_state.md R16). -/
def State.PollsInWait (s : State) : Prop := s.pollcnt ≠ 0#32 → s.busy = true ∧ s.atWait = true

/-! ### What BRINGUP has established (46_bringup_sequencer.md R191, R193) -/

/-- Sub-operation `k` of the bring-up has completed: BRINGUP is past it, or the block is Ready. -/
def State.reached (s : State) (k : Nat) : Prop :=
  s.fsm = .ready ∨ (s.busy = true ∧ (∃ verify, decode s.fetch = .ok (.bringup verify)) ∧ k < s.sub.toNat)

/-- What an operation in flight has established so far. -/
def State.Progress (s : State) : Prop :=
  match s.work with
  | .release set =>
    (2 ≤ s.step.toNat → s.rstCtrl &&& set = 0#32) ∧ (3 ≤ s.step.toNat → s.rstDone &&& set = set)
  | .osc _ _ => (3 ≤ s.step.toNat → s.osc.enable = true) ∧ (5 ≤ s.step.toNat → s.osc.stable = true)
  | .div d _ _ _ _ _ _ _ _ => d.twoStage = false → 6 ≤ s.step.toNat → (s.dom d).enable = true
  | _ => True

/-- What the completed sub-operations of the bring-up have left. -/
structure State.BroughtUp (s : State) : Prop where
  osc : s.reached 2 → s.osc.ready = true
  pllSys : s.reached 3 → (s.pll .sys).ready = true
  pllAux : s.reached 4 → (s.pll .aux).ready = true
  dom : ∀ d, s.reached (5 + d.index) → (s.dom d).valid = true ∧ (d.twoStage = false → (s.dom d).enable = true)
  released : s.reached 11 → s.rstCtrl = 0#32 ∧ s.rstDone = s.params.periphAll

/-! ### Footprints -/

/-- The registers every command may change, at its issue or at one of its endings (30_encoding.md R86, R88,
60_exceptions.md R201, R202), and POLLCNT. -/
def commonRegs : List Reg := [.status, .err, .errsnap, .pollcnt]

/-- The registers the micro-operations of a command of its own may change (40_reset_controller.md R101, R102,
41_oscillator.md R111, 42_pll_engine.md R124, 43_clock_mux.md R143, 44_clock_divider.md R152,
45_frequency_counter.md R172, 46_bringup_sequencer.md R185), and, for BRINGUP, those of its sub-operations without
their x[i] (R187). CLK_SELECTED and FC_RESULT are the environment's, CMD and WAIT_LIMIT the host's: no command changes
them. -/
def footprint : Instr → List Reg
  | .nop => [.status, .pollcnt]
  | .rstHold => commonRegs ++ [.rstCtrl, .rstDone, .x 4]
  | .rstRelease => commonRegs ++ [.rstCtrl, .rstDone, .x 4]
  | .oscStart => commonRegs ++ [.oscFreq, .oscCtrl, .oscStatus, .oscStartup, .x 4, .x 5]
  | .pllCfg p _ _ _ =>
    commonRegs ++ [.pllCs p, .pllPwr p, .pllFbdiv p, .pllPrim p, .pllVcoHz p, .pllOutHz p, .x 4, .x 5, .x 6, .x 7]
  | .muxSwitch dom _ _ =>
    commonRegs ++
      match Dom.ofIndex dom.toNat with
      | some d => [.clkCtrl d, .x 4, .x 5]
      | none => []
  | .divApply dom _ _ =>
    commonRegs ++
      match Dom.ofIndex dom.toNat with
      | some d => [.clkCtrl d, .clkDiv d, .domHz d, .domValid, .x 4, .x 5]
      | none => []
  | .fcMeasure _ =>
    commonRegs ++ [.fcRefKhz, .fcMinKhz, .fcMaxKhz, .fcInterval, .fcSrc, .fcStatus, .x 4, .x 5]
  | .bringup _ =>
    commonRegs ++ [.rstCtrl, .rstDone, .oscFreq, .oscCtrl, .oscStatus, .oscStartup, .domValid,
        .fcRefKhz, .fcMinKhz, .fcMaxKhz, .fcInterval, .fcSrc, .fcStatus] ++
      [PllId.sys, PllId.aux].flatMap
        (fun p => [.pllCs p, .pllPwr p, .pllFbdiv p, .pllPrim p, .pllVcoHz p, .pllOutHz p]) ++
      Dom.all.flatMap (fun d => [.clkCtrl d, .clkDiv d, .domHz d, .domMeasKhz d])

/-- The bytes of the register space outside a list of registers read in `t` as in `s` (20_memory.md R61, R63). -/
def State.sameBytesOutside (s t : State) (rs : List Reg) : Prop :=
  ∀ a, (∀ r ∈ rs, 4 * (a / 4) ≠ r.offset) → t.byteAt a = s.byteAt a

/-- The result and description registers read in `t` as in `s` (70_reset_and_hazards.md R249): x[i], PLL_VCO_HZ,
PLL_OUT_HZ, DOM_HZ and DOM_MEAS_KHZ, and OSC_FREQ where the parameter latches it with Complete (log entry 28). -/
def State.sameResults (s t : State) : Prop :=
  t.x = s.x ∧ (s.params.oscFreqLatch = .atComplete → t.oscFreq = s.oscFreq) ∧
    (∀ p, (t.pll p).vcoHz = (s.pll p).vcoHz ∧ (t.pll p).outHz = (s.pll p).outHz) ∧
    ∀ d, (t.dom d).hz = (s.dom d).hz ∧ (t.dom d).measKhz = (s.dom d).measKhz

/-- What no command changes, whatever its form: the parameters, STATUS.OVERRUN, the moves to come, the port's last
answer; and the write trace only grows (10_state.md R10, R13, 20_memory.md R68). -/
def State.sameSurroundings (s t : State) : Prop :=
  t.params = s.params ∧ t.overrun = s.overrun ∧ t.schedule = s.schedule ∧ t.busReply = s.busReply ∧
    ∃ es, t.trace = s.trace ++ es

end Sys2Proof.Machine
end

