-- ==== Sys2Proof/Certificates/Slice0/Obligations.lean ====
section
/-! DEFINITION. The statements for the provers. Each docstring names the rules of spec/ it comes from; where a clause
rests on a choice of this model, the log entry. -/

open Sys2Proof Sys2Proof.Machine

/-! ### Encoding (30_encoding.md R80 to R84) -/

/-- Decode and encode agree, both ways: every command, with every operand value its fields hold, decodes to itself from its
own word, and a word that decodes is the encoding of what it decodes to, so no word has a second spelling (R80, R81, R83). -/
def Obligations.DecodeEncodeAgree : Prop := ∀ (i : Instr) (w : Word), decode w = .ok i ↔ w = encode i

/-- The opcode table of R83, row by row: a word is the command of a row iff `w AND mask = match`, with the fields of R81;
a word of no row is illegal (R84). -/
def Obligations.DecodeByRow : Prop :=
  ∀ w : Word,
    (w &&& 0xFFFFFFFF#32 = 0x00000000#32 ↔ decode w = .ok .nop) ∧
    (w &&& 0xFFFFFFFF#32 = 0x10000000#32 ↔ decode w = .ok .rstHold) ∧
    (w &&& 0xFFFFFFFF#32 = 0x11000000#32 ↔ decode w = .ok .rstRelease) ∧
    (w &&& 0xFFFFFFFF#32 = 0x20000000#32 ↔ decode w = .ok .oscStart) ∧
    (w &&& 0xFFF88C0E#32 = 0x30000000#32 ↔
      decode w = .ok (.pllCfg (if w.getLsbD 0 then .aux else .sys) (w.extractLsb' 4 6) (w.extractLsb' 12 3)
        (w.extractLsb' 16 3))) ∧
    (w &&& 0xFFFFF8E8#32 = 0x40000000#32 ↔
      decode w = .ok (.muxSwitch (w.extractLsb' 0 3) (if w.getLsbD 4 then .auxiliary else .reference)
        (w.extractLsb' 8 3))) ∧
    (w &&& 0xFFFFF8E8#32 = 0x50000000#32 ↔
      decode w = .ok (.divApply (w.extractLsb' 0 3) (if w.getLsbD 4 then .auxiliary else .reference)
        (w.extractLsb' 8 3))) ∧
    (w &&& 0xFFFFFF00#32 = 0x60000000#32 ↔ decode w = .ok (.fcMeasure (w.extractLsb' 0 8))) ∧
    (w &&& 0xFFFFFFFE#32 = 0x70000000#32 ↔ decode w = .ok (.bringup (w.getLsbD 0))) ∧
    (∀ e, decode w = .error e → (e = .unassignedOpcode ↔ ∀ i, opcode i ≠ w.extractLsb' 24 8))

/-- Words written out from the tables of R81 and R83 (95_test_vectors.md V-ENC-1 to V-ENC-29). -/
def Obligations.SampleWords : Prop :=
  decode 0x00000000#32 = .ok .nop ∧ decode 0x10000000#32 = .ok .rstHold ∧ decode 0x11000000#32 = .ok .rstRelease ∧
  decode 0x20000000#32 = .ok .oscStart ∧ decode 0x30026010#32 = .ok (.pllCfg .sys 1#6 6#3 2#3) ∧
  decode 0x300773F1#32 = .ok (.pllCfg .aux 63#6 7#3 7#3) ∧
  decode 0x40000111#32 = .ok (.muxSwitch 1#3 .auxiliary 1#3) ∧
  decode 0x50000214#32 = .ok (.divApply 4#3 .auxiliary 2#3) ∧ decode 0x600000FF#32 = .ok (.fcMeasure 255#8) ∧
  decode 0x70000001#32 = .ok (.bringup true) ∧ decode 0x12000000#32 = .error .unassignedOpcode ∧
  decode 0x30026018#32 = .error .mustBeZeroBitSet ∧ decode 0x70000002#32 = .error .mustBeZeroBitSet

/-- An illegal command word ends at its first engine step: BUSY 0, ERROR 1, ERR with cause ILLEGAL_COMMAND, OPC the word's
bits 31:24, UNIT 0, STAGE 0, and ERRSNAP the word, in every FSM a command can be issued in (R84, R86, R201). -/
def Obligations.IllegalWordRejected : Prop :=
  ∀ (s : State) (w : Word), s.busy = false → s.fsm ≠ .failed → s.schedule = [] → (∀ i, decode w ≠ .ok i) →
    step (s.issue w) =
      .next { s with
        cmd := w, busy := false, done := false, error := true,
        err := ⟨0#4, .illegalCommand, w.extractLsb' 24 8, 0#4⟩, errsnap := w,
        sub := 0#8, step := 0#8, pollcnt := 0#32, work := .idle }

/-! ### The host's port (20_memory.md R60 to R67) and the register words (10_state.md R10, R13, R14) -/

/-- The register map of R10: the offsets of the table, each register at its own, and none anywhere else (R65); the layouts of
STATUS (10_state.md R13) and ERR (R14), as sums of their fields; and the CAUSE and CLASS numbers of ERR for every cause of the
table of 60_exceptions.md R200. -/
def Obligations.RegisterLayouts : Prop :=
  Reg.all.map Reg.offset =
    [0x000, 0x004, 0x008, 0x00C, 0x010, 0x014, 0x018, 0x020, 0x024, 0x028, 0x02C, 0x030, 0x034, 0x038, 0x03C,
     0x040, 0x044, 0x048, 0x04C, 0x050, 0x054, 0x060, 0x064, 0x068, 0x06C, 0x070, 0x074,
     0x080, 0x084, 0x088, 0x08C, 0x090, 0x100, 0x104, 0x110, 0x114, 0x118,
     0x140, 0x144, 0x148, 0x14C, 0x160, 0x164, 0x168, 0x16C] ++
    [0x200, 0x204, 0x208, 0x210, 0x214, 0x218, 0x220, 0x224, 0x228, 0x230, 0x234, 0x238, 0x240, 0x244, 0x248,
     0x250, 0x254, 0x258, 0x300, 0x304, 0x308, 0x30C, 0x310, 0x314, 0x318] ∧
  (∀ r : Reg, Reg.ofOffset r.offset = some r) ∧
  (∀ o, (∀ r : Reg, r.offset ≠ o) → Reg.ofOffset o = none) ∧
  (∀ s : State, (s.regRead .status).toNat =
    s.busy.toNat + 2 * s.done.toNat + 4 * s.error.toNat + 8 * s.overrun.toNat + 16 * s.fsm.code.toNat +
      256 * s.step.toNat + 65536 * s.sub.toNat) ∧
  (∀ s : State, (s.regRead .err).toNat =
    s.err.cause.cls.toNat + 16 * s.err.stage.toNat + 256 * s.err.cause.code.toNat + 65536 * s.err.opc.toNat +
      16777216 * s.err.unit.toNat) ∧
  (∀ c : Cause, (c.code, c.cls) =
    match c with
    | .none => (0x00#8, 0#4)
    | .fbdivRange => (0x01#8, 1#4)
    | .destGtSrc => (0x02#8, 1#4)
    | .vcoBand => (0x03#8, 1#4)
    | .oscRange => (0x04#8, 1#4)
    | .pllParam => (0x05#8, 1#4)
    | .divZero => (0x10#8, 2#4)
    | .divByZero => (0x11#8, 2#4)
    | .divOverflow => (0x12#8, 2#4)
    | .muxSrcUnconfigured => (0x13#8, 2#4)
    | .resetDep => (0x14#8, 2#4)
    | .pllInUse => (0x15#8, 2#4)
    | .fcParam => (0x16#8, 2#4)
    | .badOperand => (0x17#8, 2#4)
    | .locked => (0x19#8, 2#4)
    | .timeoutResetDone => (0x20#8, 3#4)
    | .timeoutOscStable => (0x21#8, 3#4)
    | .timeoutPllLock => (0x22#8, 3#4)
    | .timeoutMuxSelected => (0x23#8, 3#4)
    | .timeoutFcIdle => (0x24#8, 3#4)
    | .timeoutFcDone => (0x25#8, 3#4)
    | .illegalCommand => (0x40#8, 4#4))

/-- Host reads (R61, R62, R63, R65): an aligned 32-bit read answers the register's value, or 0 at an unmapped offset, at
any time and with no effect on any state; an access that is not an aligned 32-bit one is answered with a bus error and
changes nothing. The answer stands in the model's field `busReply` (log entry 15). -/
def Obligations.HostReads : Prop :=
  ∀ (s : State) (o : Nat), o < 0x1000 →
    (∀ r : Reg, r.offset = o →
      s.hostAccess (.read (s.params.cbeBase + BitVec.ofNat 32 o) 4) = { s with busReply := .data (s.regRead r) }) ∧
    ((∀ r : Reg, r.offset ≠ o) → o % 4 = 0 →
      s.hostAccess (.read (s.params.cbeBase + BitVec.ofNat 32 o) 4) = { s with busReply := .data 0#32 }) ∧
    (∀ n v, ¬(n = 4 ∧ o % 4 = 0) →
      s.hostAccess (.read (s.params.cbeBase + BitVec.ofNat 32 o) n) = { s with busReply := .busError } ∧
      s.hostAccess (.write (s.params.cbeBase + BitVec.ofNat 32 o) n v) = { s with busReply := .busError })

/-- Host writes, register by register (R64, R65, 30_encoding.md R86): CMD issues the command, x[i] and WAIT_LIMIT store,
all three only while BUSY = 0 and FSM is not Failed, and are dropped with OVERRUN set otherwise; STATUS clears OVERRUN;
every other register and every unmapped offset ignores the write. `work` is the hidden state of R43, `busReply` the model's
record of the port's answer (log entry 15). -/
def Obligations.HostWrites : Prop :=
  ∀ (s : State) (o : Nat) (v : Word), o < 0x1000 → o % 4 = 0 →
    let after := s.hostAccess (.write (s.params.cbeBase + BitVec.ofNat 32 o) 4 v)
    let idle := s.busy = false ∧ s.fsm ≠ .failed
    (o = 0x000 → idle → after =
      { s with
        cmd := v, busy := true, done := false, error := false, err := ⟨0#4, .none, 0#8, 0#4⟩, errsnap := 0#32,
        sub := 0#8, step := 0#8, pollcnt := 0#32, work := .idle, busReply := .ack }) ∧
    (∀ i : Fin 8, o = 0x020 + 4 * i.val → idle → after = { s with x := s.x.set i.val v, busReply := .ack }) ∧
    (o = 0x010 → idle → after = { s with waitLimit := v, busReply := .ack }) ∧
    ((o = 0x000 ∨ o = 0x010 ∨ (0x020 ≤ o ∧ o < 0x040)) → ¬idle → after = { s with overrun := true, busReply := .ack }) ∧
    (o = 0x004 → after = { s with overrun := s.overrun && !v.getLsbD 3, busReply := .ack }) ∧
    (o ≠ 0x000 → o ≠ 0x004 → o ≠ 0x010 → ¬(0x020 ≤ o ∧ o < 0x040) → after = { s with busReply := .ack })

/-! ### One step (20_memory.md R69) -/

/-- A step runs the decoded instruction: when the engine moves next and the latched word decodes to `i`, the step is `exec`
of `i`, on the state with that move taken from the schedule (R69, R71; log entries 1 and 2). The other moves are the
environment's and the host's own, and an engine that is idle (70_reset_and_hazards.md R231) or halted (60_exceptions.md R202)
does nothing. -/
def Obligations.StepRunsDecoded : Prop :=
  ∀ (s : State) (rest : List Move),
    (∀ i, s.busy = true → s.fsm ≠ .failed → decode s.cmd = .ok i →
      (s.schedule = [] → step s = exec i s) ∧
      (s.schedule = .engine :: rest → step s = exec i { s with schedule := rest })) ∧
    (∀ e, s.schedule = .env e :: rest → step s = .next ({ s with schedule := rest }.envStep e)) ∧
    (∀ a, s.schedule = .host a :: rest → step s = .next ({ s with schedule := rest }.hostAccess a)) ∧
    (s.busy = false ∨ s.fsm = .failed →
      (s.schedule = [] → step s = .next s) ∧
      (s.schedule = .engine :: rest → step s = .next { s with schedule := rest }))

/-- The state gate of Ready (30_encoding.md R87): every command but NOP and FC_MEASURE is rejected at its first
micro-operation with LOCKED, ERRSNAP = FSM = 8, and nothing else changes. -/
def Obligations.ReadyRefuses : Prop :=
  ∀ (i : Instr) (s : State), s.fsm = .ready → s.sub = 0#8 → s.step = 0#8 →
    i ≠ .nop → (∀ src, i ≠ .fcMeasure src) →
    exec i s =
      .next { s with
        busy := false, error := true, pollcnt := 0#32, work := .idle, errsnap := 8#32,
        err := ⟨0#4, .locked, opcode i,
          match i with
          | .pllCfg p _ _ _ => 0#3 ++ p.bit
          | .muxSwitch dom _ _ => 0#1 ++ dom
          | .divApply dom _ _ => 0#1 ++ dom
          | _ => 0#4⟩ }

/-- The busy-wait (60_exceptions.md R203), for every command and every sub-operation of BRINGUP: at a Wait one engine step is
one poll. A poll whose predicate holds is recorded and moves on; one that does not counts, saturating, and stays; with
WAIT_LIMIT ≠ 0 the poll that reaches the limit is fatal, class 3, cause 0x20 + wait id, with the last value read in ERRSNAP. -/
def Obligations.WaitPolls : Prop :=
  ∀ (i : Instr) (s : State) (o : Op) (w : WaitId) (r : Reg) (mask val : Word),
    s.opOf i = some o → o.inFlight s → s.awaited = some (w, r, mask, val) →
    let count := if s.pollcnt = 0xFFFFFFFF#32 then s.pollcnt else s.pollcnt + 1#32
    (s.regRead r &&& mask = val →
      exec i s =
        .next { s with trace := s.trace ++ [.wait w r (s.regRead r)], pollcnt := 0#32, step := s.step + 1#8 }) ∧
    (s.regRead r &&& mask ≠ val → s.waitLimit = 0#32 ∨ count < s.waitLimit →
      exec i s = .next { s with pollcnt := count }) ∧
    (s.regRead r &&& mask ≠ val → s.waitLimit ≠ 0#32 → s.waitLimit ≤ count →
      exec i s =
        .next { s with
          fsm := .failed, busy := false, error := true, sub := 0#8, step := 0#8, pollcnt := 0#32, work := .idle,
          errsnap := s.regRead r,
          err := ⟨match i with
            | .bringup _ => s.fsm.code + 1#4
            | _ => 0#4, w.cause, o.opcode, o.unit⟩ }) ∧
    w.cause.cls = 3#4 ∧ w.cause.code = 0x20#8 + BitVec.ofNat 8 w.code

/-! ### What a RegWrite does (10_state.md R22 to R40, R51, R53, R55; 20_memory.md R67, R68) -/

/-- What each target register reads after the engine writes `v` to it, with the effects "in the same step", and the entry
in the trace. Of OSC_STATUS a write of OSC_CTRL copies ENABLE to ENABLED, sets BADWRITE for a RANGE code other than 0 and leaves
STABLE (R24, R25). Of RST_CTRL the write clears the RST_DONE bit of every peripheral written 1 (R51; log entry 13). -/
def Obligations.RegWriteStores : Prop :=
  ∀ (s : State) (v : Word),
    (∀ r, (s.regWrite r v).trace = s.trace ++ [.write r v]) ∧
    (s.regWrite .rstCtrl v).regRead .rstCtrl = v &&& s.params.periphAll ∧
    (s.regWrite .rstCtrl v).regRead .rstDone = s.regRead .rstDone &&& ~~~v ∧
    (s.regWrite .oscCtrl v).regRead .oscCtrl = v &&& 0x10F#32 ∧
    (s.regWrite .oscCtrl v).regRead .oscStatus =
      (s.regRead .oscStatus &&& 0x80000000#32) |||
        (if v &&& 0xF#32 = 0#32 then s.regRead .oscStatus &&& 0x01000000#32 else 0x01000000#32) |||
        ((v >>> 8) &&& 1#32) ∧
    (s.regWrite .oscStatus v).regRead .oscStatus = s.regRead .oscStatus &&& ~~~(v &&& 0x01000000#32) ∧
    (s.regWrite .oscStartup v).regRead .oscStartup = v &&& 0xFFFF#32 ∧
    (∀ p, (s.regWrite (.pllCs p) v).regRead (.pllCs p) = (s.regRead (.pllCs p) &&& 0x80000000#32) ||| (v &&& 0x3F#32)) ∧
    (∀ p, (s.regWrite (.pllPwr p) v).regRead (.pllPwr p) = v &&& 7#32 ∧
      (s.regWrite (.pllPwr p) v).regRead (.pllCs p) =
        if v &&& 3#32 = 0#32 then s.regRead (.pllCs p) else s.regRead (.pllCs p) &&& 0x3F#32) ∧
    (∀ p, (s.regWrite (.pllFbdiv p) v).regRead (.pllFbdiv p) = v &&& 0x1FF#32 ∧
      (s.regWrite (.pllFbdiv p) v).regRead (.pllCs p) =
        if v &&& 0x1FF#32 = 0#32 then s.regRead (.pllCs p) &&& 0x3F#32 else s.regRead (.pllCs p)) ∧
    (∀ p, (s.regWrite (.pllPrim p) v).regRead (.pllPrim p) = v &&& 0x77#32) ∧
    (∀ d, (s.regWrite (.clkCtrl d) v).regRead (.clkCtrl d) = v &&& if d.twoStage then 0x71#32 else 0x870#32) ∧
    (∀ d, (s.regWrite (.clkDiv d) v).regRead (.clkDiv d) = v) ∧
    (s.regWrite .fcRefKhz v).regRead .fcRefKhz = v ∧
    (s.regWrite .fcMinKhz v).regRead .fcMinKhz = v ∧
    (s.regWrite .fcMaxKhz v).regRead .fcMaxKhz = v ∧
    (s.regWrite .fcInterval v).regRead .fcInterval = v &&& 0xF#32 ∧
    (s.regWrite .fcSrc v).regRead .fcSrc = v &&& 0xFF#32 ∧
    (s.regWrite .fcSrc v).regRead .fcStatus = (if v &&& 0xFF#32 = 0#32 then s.regRead .fcStatus else 1#32)

/-- A RegWrite changes no register but the one written and the ones R67 names for it: RST_DONE with RST_CTRL, OSC_STATUS with
OSC_CTRL, PLL_CS with PLL_PWR and PLL_FBDIV, FC_STATUS with FC_SRC. -/
def Obligations.RegWriteFrame : Prop :=
  ∀ (s : State) (r r' : Reg) (v : Word), r' ≠ r →
    (r = .rstCtrl → r' ≠ .rstDone) → (r = .oscCtrl → r' ≠ .oscStatus) →
    (∀ p, r = .pllPwr p ∨ r = .pllFbdiv p → r' ≠ .pllCs p) → (r = .fcSrc → r' ≠ .fcStatus) →
    (s.regWrite r v).regRead r' = s.regRead r'

/-! ### The commands, micro-operation by micro-operation. A Wait that is not satisfied is `WaitPolls`; an unsatisfied
validation stands in the same equation as the satisfied one. -/

/-- NOP (46_bringup_sequencer.md R185): its one micro-operation completes, in PowerOnReset and in Ready, and touches nothing
but STATUS; issued in Ready it leaves STATUS = 0x82 and ERR = 0. -/
def Obligations.NopRuns : Prop :=
  ∀ s : State, s.fsm = .powerOnReset ∨ s.fsm = .ready →
    (s.step = 0#8 →
      exec .nop s =
        .next { s with busy := false, done := true, sub := 0#8, step := 0#8, pollcnt := 0#32, work := .idle }) ∧
    (s.fsm = .ready → s.overrun = false →
      ∃ t, exec .nop (s.issue 0x00000000#32) = .next t ∧ t.regRead .status = 0x82#32 ∧ t.regRead .err = 0#32 ∧
        t.errsnap = 0#32 ∧ t.x = s.x ∧ t.trace = s.trace)

/-- RST_HOLD (40_reset_controller.md R101): BAD_OPERAND for a bit outside `PERIPH_ALL`; RST_CTRL gains the set, whose
RST_DONE bits are cleared in the same step; the new RST_CTRL goes to x[4]. -/
def Obligations.RstHoldRuns : Prop :=
  ∀ s : State, s.ResetLines →
    let outside := s.xr 0 &&& ~~~s.params.periphAll
    (s.step = 0#8 → s.fsm = .powerOnReset →
      exec .rstHold s =
        .next (if outside ≠ 0#32 then s.reject ⟨.badOperand, outside⟩ 0x10#8 0#4
          else { s with work := .hold (s.xr 0), step := 1#8 })) ∧
    (∀ set, s.work = .hold set → set &&& ~~~s.params.periphAll = 0#32 → s.step = 1#8 →
      exec .rstHold s =
        .next { s with
          rstCtrl := s.rstCtrl ||| set, rstDone := s.rstDone &&& ~~~set,
          trace := s.trace ++ [.write .rstCtrl (s.rstCtrl ||| set)], step := 2#8 }) ∧
    (∀ set, s.work = .hold set → s.step = 2#8 →
      exec .rstHold s = .next (s.setX 4 s.rstCtrl).complete)

/-- RST_RELEASE (40_reset_controller.md R102): BAD_OPERAND, then RESET_DEP with the mask of the peripherals whose clock
domain is not valid; RST_CTRL loses the set and RST_DONE is not written; the Wait ends once every bit of the set is done;
RST_DONE goes to x[4]. -/
def Obligations.RstReleaseRuns : Prop :=
  ∀ s : State, s.ResetLines →
    let outside := s.xr 0 &&& ~~~s.params.periphAll
    let bad := s.xr 0 &&& s.unreleasable
    (s.step = 0#8 → s.fsm = .powerOnReset →
      exec .rstRelease s =
        .next (if outside ≠ 0#32 then s.reject ⟨.badOperand, outside⟩ 0x11#8 0#4
          else if bad ≠ 0#32 then s.reject ⟨.resetDep, bad⟩ 0x11#8 0#4
          else { s with work := .release (s.xr 0), step := 1#8 })) ∧
    (∀ p : Fin 32, s.unreleasable.getLsbD p =
      match clockDep p with
      | some d => !((s.dom d).valid && (d.twoStage || (s.dom d).enable))
      | none => false) ∧
    (∀ set, s.work = .release set → s.step = 1#8 →
      exec .rstRelease s =
        .next { s with
          rstCtrl := s.rstCtrl &&& ~~~set, trace := s.trace ++ [.write .rstCtrl (s.rstCtrl &&& ~~~set)], step := 2#8 }) ∧
    (∀ set, s.work = .release set → s.step = 2#8 → s.rstDone &&& set = set →
      exec .rstRelease s =
        .next { s with trace := s.trace ++ [.wait .resetDone .rstDone s.rstDone], pollcnt := 0#32, step := 3#8 }) ∧
    (∀ set, s.work = .release set → s.step = 3#8 →
      exec .rstRelease s = .next (s.setX 4 s.rstDone).complete)

/-- OSC_START (41_oscillator.md R111): LOCKED when already enabled, OSC_RANGE for an unsupported frequency or a delay that
does not fit; clear BADWRITE, enable at range 0, write the startup delay and latch OSC_FREQ, wait for STABLE; the observed
status and the delay go to x[4] and x[5]. OSC_FREQ is latched in STEP 3, as R111 lists it, or with Complete,
as 70_reset_and_hazards.md R249 says, by the parameter of log entry 28. -/
def Obligations.OscStartRuns : Prop :=
  ∀ s : State,
    let f := s.xr 0
    let delay := (f.toNat + 255999) / 256000
    let latched (place : Config.OscFreqLatch) (g : Word) := if s.params.oscFreqLatch = place then g else s.oscFreq
    (s.step = 0#8 → s.fsm = .powerOnReset →
      exec .oscStart s =
        .next (if s.osc.enable = true then s.reject ⟨.locked, s.regRead .oscCtrl⟩ 0x20#8 0#4
          else if f.toNat < s.params.oscMinHz ∨ s.params.oscMaxHz < f.toNat then s.reject ⟨.oscRange, f⟩ 0x20#8 0#4
          else if 0xFFFF < delay then s.reject ⟨.oscRange, BitVec.ofNat 32 delay⟩ 0x20#8 0#4
          else { s with work := .osc f (BitVec.ofNat 16 delay), step := 1#8 })) ∧
    (∀ g d, s.work = .osc g d →
      (s.step = 1#8 → exec .oscStart s = .next ((s.regWrite .oscStatus 0x01000000#32).goto 2#8)) ∧
      (s.step = 2#8 → exec .oscStart s = .next ((s.regWrite .oscCtrl 0x00000100#32).goto 3#8)) ∧
      (s.step = 3#8 →
        exec .oscStart s =
          .next { s.regWrite .oscStartup (d.setWidth 32) with
            oscFreq := latched .beforeWait g, step := 4#8 }) ∧
      (s.step = 4#8 → s.osc.stable = true →
        exec .oscStart s =
          .next { s with
            trace := s.trace ++ [.wait .oscStable .oscStatus (s.regRead .oscStatus)], pollcnt := 0#32,
            step := 5#8 }) ∧
      (s.step = 5#8 →
        exec .oscStart s =
          .next (({ s with oscFreq := latched .atComplete g }.setX 4 (s.regRead .oscStatus)).setX 5 (d.setWidth 32)).complete))

/-- The validation of PLL_CFG (42_pll_engine.md R123, with the divisions of R121), in its order, and `pll_in_use`
(10_state.md R45): the first check that fails names the cause and the value; when all pass, fbdiv and vco_hz are kept. -/
def Obligations.PllCfgValidates : Prop :=
  ∀ (s : State) (p : PllId) (refdiv : BitVec 6) (pd1 pd2 : BitVec 3),
    let ref := s.oscFreq.toNat / refdiv.toNat
    let fbdiv := (s.xr 0).toNat / ref
    let vco := ref * fbdiv
    let rej (c : Cause) (v : Word) : State := s.reject ⟨c, v⟩ 0x30#8 (0#3 ++ p.bit)
    (s.step = 0#8 → s.fsm = .powerOnReset →
      exec (.pllCfg p refdiv pd1 pd2) s =
        .next (if refdiv = 0#6 ∨ s.params.refdivMax < refdiv.toNat then rej .pllParam (refdiv.setWidth 32)
          else if pd1.toNat < s.params.postdivMin ∨ s.params.postdivMax < pd1.toNat then
            rej .pllParam (pd1.setWidth 32)
          else if pd2.toNat < s.params.postdivMin ∨ s.params.postdivMax < pd2.toNat then
            rej .pllParam (pd2.setWidth 32)
          else if ref = 0 then rej .divByZero s.oscFreq
          else if fbdiv < 16 ∨ 320 < fbdiv then rej .fbdivRange (BitVec.ofNat 32 fbdiv)
          else if vco < s.params.vcoMinHz ∨ s.params.vcoMaxHz < vco then rej .vcoBand (BitVec.ofNat 32 vco)
          else if s.pllInUse p = true then rej .pllInUse (s.regRead (.pllPwr p))
          else { s with
            work := .pll p refdiv pd1 pd2 (BitVec.ofNat 9 fbdiv) (BitVec.ofNat 32 vco), step := 1#8 })) ∧
    (s.pllInUse p = true ↔
      ∃ d, (s.dom d).auxsrc = (match p with | .sys => 1#3 | .aux => 2#3) ∧
        if d.twoStage then (s.dom d).main = .auxiliary ∨ (s.dom d).selected = .auxiliary else (s.dom d).enable = true)

/-- PLL_CFG after its validation (42_pll_engine.md R124, R126), STEP 1 to 9. -/
def Obligations.PllCfgRuns : Prop :=
  ∀ (s : State) (p : PllId) (refdiv : BitVec 6) (pd1 pd2 : BitVec 3) (fbdiv : BitVec 9) (vco : Word),
    s.work = .pll p refdiv pd1 pd2 fbdiv vco →
    let run := exec (.pllCfg p refdiv pd1 pd2) s
    let out := BitVec.ofNat 32 (vco.toNat / (pd1.toNat * pd2.toNat))
    (s.step = 1#8 → run = .next ((s.regWrite (.pllPwr p) 0b111#32).goto 2#8)) ∧
    (s.step = 2#8 → run = .next ((s.regWrite (.pllFbdiv p) 0#32).goto 3#8)) ∧
    (s.step = 3#8 → run = .next ((s.regWrite (.pllCs p) (refdiv.setWidth 32)).goto 4#8)) ∧
    (s.step = 4#8 → run = .next ((s.regWrite (.pllFbdiv p) (fbdiv.setWidth 32)).goto 5#8)) ∧
    (s.step = 5#8 → run = .next ((s.regWrite (.pllPwr p) 0b100#32).goto 6#8)) ∧
    (s.step = 6#8 → (s.pll p).lock = true →
      run =
        .next { s with
          trace := s.trace ++ [.wait .pllLock (.pllCs p) (s.regRead (.pllCs p))], pollcnt := 0#32, step := 7#8 }) ∧
    (s.step = 7#8 →
      run = .next ((s.regWrite (.pllPrim p) ((pd2.setWidth 32 <<< 4) + pd1.setWidth 32)).goto 8#8)) ∧
    (s.step = 8#8 → run = .next ((s.regWrite (.pllPwr p) 0b000#32).goto 9#8)) ∧
    (s.step = 9#8 →
      run =
        .next (((((s.setPll p { s.pll p with vcoHz := vco, outHz := out }).setX 4 (fbdiv.setWidth 32)).setX 5 vco).setX 6
          out).setX 7 (s.regRead (.pllCs p))).complete)

/-- The validation of MUX_SWITCH (43_clock_mux.md R141), in its order, and `aux_ready` (10_state.md R35). -/
def Obligations.MuxSwitchValidates : Prop :=
  ∀ (s : State) (dom : BitVec 3) (main : Path) (auxsrc : BitVec 3), s.step = 0#8 → s.fsm = .powerOnReset →
    let rej (c : Cause) (v : Word) : State := s.reject ⟨c, v⟩ 0x40#8 (0#1 ++ dom)
    (1 < dom.toNat → exec (.muxSwitch dom main auxsrc) s = .next (rej .badOperand (dom.setWidth 32))) ∧
    (∀ d, d.twoStage = true → dom.toNat = d.index →
      exec (.muxSwitch dom main auxsrc) s =
        .next (if main = .reference ∧ auxsrc ≠ 0#3 ∨ main = .auxiliary ∧ 2 < auxsrc.toNat then
            rej .badOperand (auxsrc.setWidth 32)
          else if s.regRead (.clkSelected d) = 0b10#32 ∧ s.auxReady (s.dom d).auxsrc = false then
            rej .muxSrcUnconfigured (s.regRead (.clkCtrl d))
          else if main = .auxiliary ∧ s.auxReady auxsrc = false then
            rej .muxSrcUnconfigured (auxsrc.setWidth 32)
          else { s with work := .mux d main auxsrc false, step := 1#8 })) ∧
    (∀ a : BitVec 3, s.auxReady a = true ↔
      (a = 0#3 ∧ s.osc.enable = true ∧ s.osc.stable = true) ∨
      (a = 1#3 ∧ (s.pll .sys).lock = true ∧ (s.pll .sys).postdivPd = false) ∨
      (a = 2#3 ∧ (s.pll .aux).lock = true ∧ (s.pll .aux).postdivPd = false) ∨ a = 3#3)

/-- MUX_SWITCH after its validation: M1 to M5 of 43_clock_mux.md R142 at STEP 1 to 5, the results at STEP 6 (R143). A
micro-operation whose condition is false is passed: one step that moves the position only (log entry 7). -/
def Obligations.MuxSwitchRuns : Prop :=
  ∀ (s : State) (dom : BitVec 3) (d : Dom) (main : Path) (auxsrc : BitVec 3) (stepped : Bool),
    dom.toNat = d.index → d.twoStage = true → s.work = .mux d main auxsrc stepped →
    let run := exec (.muxSwitch dom main auxsrc) s
    let write (m : Path) (a : BitVec 3) : State := s.regWrite (.clkCtrl d) (clkCtrlWord m a false)
    (s.step = 1#8 →
      run = .next (if main = .auxiliary ∧ (s.dom d).main = .auxiliary then
          { write .reference (s.dom d).auxsrc with work := .mux d main auxsrc true, step := 2#8 }
        else s.goto 2#8)) ∧
    (s.step = 2#8 → stepped = false → run = .next (s.goto 3#8)) ∧
    (s.step = 2#8 → stepped = true → (s.dom d).selected = .reference →
      run =
        .next { s with
          trace := s.trace ++ [.wait .muxSelected (.clkSelected d) 0b01#32], pollcnt := 0#32, step := 3#8 }) ∧
    (s.step = 3#8 →
      run = .next (if main = .auxiliary then (write (s.dom d).main auxsrc).goto 4#8 else s.goto 4#8)) ∧
    (s.step = 4#8 → run = .next ((write main (s.dom d).auxsrc).goto 5#8)) ∧
    (s.step = 5#8 → (s.dom d).selected = main →
      run =
        .next { s with
          trace := s.trace ++ [.wait .muxSelected (.clkSelected d) (selectedWord main)], pollcnt := 0#32,
          step := 6#8 }) ∧
    (s.step = 6#8 →
      run = .next ((s.setX 4 (selectedWord (s.dom d).selected)).setX 5 (s.regRead (.clkCtrl d))).complete)

/-- The validation of DIV_APPLY (44_clock_divider.md R151), in its order, for both kinds of domain. DIV_ZERO has no branch:
after the checks (c) and (d) the divisor is never 0. -/
def Obligations.DivApplyValidates : Prop :=
  ∀ (s : State) (dom : BitVec 3) (main : Path) (auxsrc : BitVec 3), s.step = 0#8 → s.fsm = .powerOnReset →
    let src := s.xr 0
    let dst := s.xr 1
    let divisor := src.toNat * 256 / dst.toNat
    let rej (c : Cause) (v : Word) : State := s.reject ⟨c, v⟩ 0x50#8 (0#1 ++ dom)
    (5 < dom.toNat → exec (.divApply dom main auxsrc) s = .next (rej .badOperand (dom.setWidth 32))) ∧
    (∀ d : Dom, dom.toNat = d.index →
      exec (.divApply dom main auxsrc) s =
        .next (if d.twoStage = true ∧ (main = .reference ∧ auxsrc ≠ 0#3 ∨ main = .auxiliary ∧ 2 < auxsrc.toNat) then
            rej .badOperand (auxsrc.setWidth 32)
          else if d.twoStage = false ∧ (main = .reference ∨ 3 < auxsrc.toNat) then
            rej .badOperand ((auxsrc.setWidth 32 <<< 8) + (main.bit.setWidth 32 <<< 4))
          else if src < dst then rej .destGtSrc dst
          else if dst = 0#32 then rej .divByZero src
          else if 2 ^ 32 ≤ divisor then rej .divOverflow (BitVec.ofNat 32 divisor)
          else if d.twoStage = true ∧ (s.dom d).selected = .auxiliary ∧ s.auxReady (s.dom d).auxsrc = false then
            rej .muxSrcUnconfigured (s.regRead (.clkCtrl d))
          else if main = .auxiliary ∧ s.auxReady auxsrc = false then
            rej .muxSrcUnconfigured (auxsrc.setWidth 32)
          else { s with
            work := .div d main auxsrc src.toNat (BitVec.ofNat 32 divisor) (s.dom d).div false 0 0, step := 1#8 }))

/-- DIV_APPLY after its validation (44_clock_divider.md R152, R154, R155): the early divisor write exactly when the divisor
grows (STEP 1), the mux sequence of a two-stage domain (STEP 2 to 6), the final divisor write in every case (STEP 7), the
records DOM_HZ and DOM_VALID and the results (STEP 8). A passed micro-operation is one step that moves the position only (log
entry 7). An achieved frequency of 2^32 Hz or more, which DOM_HZ cannot hold, leaves a free value there (log entry 27). -/
def Obligations.DivApplyRuns : Prop :=
  ∀ (s : State) (dom : BitVec 3) (d : Dom) (main : Path) (auxsrc : BitVec 3) (src : Nat) (div old : Word)
    (stepped : Bool) (n left : Nat),
    dom.toNat = d.index → s.work = .div d main auxsrc src div old stepped n left →
    let run := exec (.divApply dom main auxsrc) s
    let write (m : Path) (a : BitVec 3) : State := s.regWrite (.clkCtrl d) (clkCtrlWord m a false)
    let achieved := src * 256 / div.toNat
    let hz := if achieved < 2 ^ 32 then BitVec.ofNat 32 achieved else Config.freeDomHz achieved
    (s.step = 1#8 → run = .next (if old < div then (s.regWrite (.clkDiv d) div).goto 2#8 else s.goto 2#8)) ∧
    (d.twoStage = true →
      (s.step = 2#8 →
        run = .next (if main = .auxiliary ∧ (s.dom d).main = .auxiliary then
            { write .reference (s.dom d).auxsrc with
              work := .div d main auxsrc src div old true n left, step := 3#8 }
          else s.goto 3#8)) ∧
      (s.step = 3#8 → stepped = false → run = .next (s.goto 4#8)) ∧
      (s.step = 3#8 → stepped = true → (s.dom d).selected = .reference →
        run =
          .next { s with
            trace := s.trace ++ [.wait .muxSelected (.clkSelected d) 0b01#32], pollcnt := 0#32, step := 4#8 }) ∧
      (s.step = 4#8 →
        run = .next (if main = .auxiliary then (write (s.dom d).main auxsrc).goto 5#8 else s.goto 5#8)) ∧
      (s.step = 5#8 → run = .next ((write main (s.dom d).auxsrc).goto 6#8)) ∧
      (s.step = 6#8 → (s.dom d).selected = main →
        run =
          .next { s with
            trace := s.trace ++ [.wait .muxSelected (.clkSelected d) (selectedWord main)], pollcnt := 0#32,
            step := 7#8 })) ∧
    (s.step = 7#8 → run = .next ((s.regWrite (.clkDiv d) div).goto 8#8)) ∧
    (s.step = 8#8 →
      run =
        .next (((s.setDom d { s.dom d with hz := hz, valid := true }).setX 4 div).setX 5
          (BitVec.ofNat 32 achieved)).complete)

/-- The gated sequence of DIV_APPLY (44_clock_divider.md R153, R158): disable, settle, change the source, enable. The settle
lasts `settle_cycles(DOM_HZ[1], DOM_HZ[d])` idle steps if the domain was running, else 0; it takes at least one engine step
and its last one records it in the trace (log entry 6). STEP 6, which a gated domain passes, is one step that moves the position
only (log entry 7). -/
def Obligations.GatedSequenceRuns : Prop :=
  ∀ (s : State) (dom : BitVec 3) (d : Dom) (main : Path) (auxsrc : BitVec 3) (src : Nat) (div old : Word)
    (stepped : Bool) (n left : Nat),
    dom.toNat = d.index → d.twoStage = false → s.work = .div d main auxsrc src div old stepped n left →
    let run := exec (.divApply dom main auxsrc) s
    let write (a : BitVec 3) (e : Bool) : State := s.regWrite (.clkCtrl d) (clkCtrlWord .reference a e)
    let settle := if (s.dom d).enable then settleCycles s.params (s.dom .sys).hz.toNat (s.dom d).hz.toNat else 0
    (s.step = 2#8 →
      run =
        .next { write (s.dom d).auxsrc false with
          work := .div d main auxsrc src div old stepped settle settle, step := 3#8 }) ∧
    (s.step = 3#8 → left ≤ 1 → run = .next { s with trace := s.trace ++ [.settle n], step := 4#8 }) ∧
    (s.step = 3#8 → 1 < left → run = .next { s with work := .div d main auxsrc src div old stepped n (left - 1) }) ∧
    (s.step = 4#8 → run = .next ((write auxsrc (s.dom d).enable).goto 5#8)) ∧
    (s.step = 5#8 → run = .next ((write (s.dom d).auxsrc true).goto 6#8)) ∧
    (s.step = 6#8 → run = .next (s.goto 7#8))

/-- FC_MEASURE (45_frequency_counter.md R171, R172), in PowerOnReset and in Ready: FC_PARAM for a source outside 1 to 10 or
a reference whose window is empty; wait until idle, program, start, wait until done; FC_RESULT and FC_STATUS go to x[4] and
x[5]. STEP 8 also clears the hidden window, edge count and source of the measurement, which 10_state.md R43 says do not survive
the command (log entry 12). -/
def Obligations.FcMeasureRuns : Prop :=
  ∀ (s : State) (src : BitVec 8),
    let run := exec (.fcMeasure src) s
    let interval := s.params.fcIntervalFixed
    (s.step = 0#8 → s.fsm = .powerOnReset ∨ s.fsm = .ready →
      run =
        .next (if src = 0#8 ∨ 10 < src.toNat then s.reject ⟨.fcParam, src.setWidth 32⟩ 0x60#8 0#4
          else if (s.xr 0).toNat * 2 ^ interval.toNat / 1000 = 0 then s.reject ⟨.fcParam, s.xr 0⟩ 0x60#8 0#4
          else { s with work := .fc src (s.xr 0), step := 1#8 })) ∧
    (∀ khz, s.work = .fc src khz →
      (s.step = 1#8 → s.fc.running = false →
        run =
          .next { s with
            trace := s.trace ++ [.wait .fcIdle .fcStatus (s.regRead .fcStatus)], pollcnt := 0#32, step := 2#8 }) ∧
      (s.step = 2#8 → run = .next ((s.regWrite .fcRefKhz khz).goto 3#8)) ∧
      (s.step = 3#8 → run = .next ((s.regWrite .fcInterval (interval.setWidth 32)).goto 4#8)) ∧
      (s.step = 4#8 → run = .next ((s.regWrite .fcMinKhz 0#32).goto 5#8)) ∧
      (s.step = 5#8 → run = .next ((s.regWrite .fcMaxKhz 0xFFFFFFFF#32).goto 6#8)) ∧
      (s.step = 6#8 → run = .next ((s.regWrite .fcSrc (src.setWidth 32)).goto 7#8)) ∧
      (s.step = 7#8 → s.fc.done = true →
        run =
          .next { s with
            trace := s.trace ++ [.wait .fcDone .fcStatus (s.regRead .fcStatus)], pollcnt := 0#32, step := 8#8 }) ∧
      (s.step = 8#8 →
        run =
          .next (({ s with fc := { s.fc with window := 0, edges := 0, measured := 0#8 } }.setX 4 s.fc.result).setX 5
            (s.regRead .fcStatus)).complete))

/-- BRINGUP (46_bringup_sequencer.md R187, R189, R190): it starts with the first micro-operation of RST_HOLD(`PERIPH_ALL`);
at every later position it does what the sub-operation does (`runOp`), which it ends by the FSM value of the table and the
next sub-operation; a rejection is fatal; the last micro-operation of SUB 17, and of SUB 12 when V = 0 (log entry 8), ends in
Ready. -/
def Obligations.BringupRuns : Prop :=
  ∀ (s : State) (v : Bool),
    let run := exec (.bringup v) s
    (s.fsm = .powerOnReset → s.sub = 0#8 → s.step = 0#8 →
      run = .next { s with work := .hold s.params.periphAll, step := 1#8 }) ∧
    (∀ o, s.planOp v s.sub.toNat = some o → ¬(s.sub = 0#8 ∧ s.step = 0#8) →
      (∀ t, runOp o s = .cont t → run = .next t) ∧
      (∀ t xs, runOp o s = .finish t xs → s.sub.toNat < 12 →
        run =
          .next { t with
            fsm := fsmAfter s.sub.toNat, sub := s.sub + 1#8, step := 0#8, pollcnt := 0#32, work := .idle }) ∧
      (∀ r, runOp o s = .reject r → run = .next (s.fatal r (s.fsm.code + 1#4) o.opcode o.unit))) ∧
    (v = true → ∀ d : Dom, s.sub.toNat = 12 + d.index → s.step = 8#8 →
      ∀ src khz, s.work = .fc src khz → ∃ t, run = .next t ∧ (t.dom d).measKhz = s.fc.result ∧ t.x = s.x ∧
        (d ≠ .peri → t.busy = s.busy ∧ t.fsm = .allPeripheralsReleased ∧ t.sub = s.sub + 1#8 ∧ t.step = 0#8) ∧
        (d = .peri → t.busy = false ∧ t.done = true ∧ t.fsm = .ready ∧ t.sub = 0#8 ∧ t.step = 0#8)) ∧
    (v = false → s.sub = 12#8 → s.step = 0#8 →
      run =
        .next { s with
          fsm := .ready, busy := false, done := true, sub := 0#8, step := 0#8, pollcnt := 0#32, work := .idle })

/-- The table of BRINGUP (46_bringup_sequencer.md R187, R190) and `plan_src_hz` (R186): the operation and operands of each
SUB, and the FSM value after it. R186 gives no `plan_src_hz` for a reserved AUXSRC or for a gated domain with MAIN = 0: the 0 of
`src` there is the model's choice (log entry 19), for operands that check (b) of 44_clock_divider.md R151 rejects. -/
def Obligations.BringupTable : Prop :=
  ∀ (s : State) (v : Bool),
    let p := s.params.plan
    let src (m : Path) (a : BitVec 3) (onReference : Nat) : Nat :=
      if m = .reference then onReference
      else if a = 0#3 then s.oscFreq.toNat
      else if a = 1#3 then (s.pll .sys).outHz.toNat
      else if a = 2#3 then (s.pll .aux).outHz.toNat
      else if a = 3#3 then (s.dom .sys).hz.toNat
      else 0
    s.planOp v 0 = some (.hold s.params.periphAll) ∧
    s.planOp v 1 = some (.release (s.params.periphAll &&& ~~~0x0000007F#32)) ∧
    s.planOp v 2 = some (.osc p.xoscHz) ∧
    s.planOp v 3 = some (.pll .sys p.pllSys.refdiv p.pllSys.pd1 p.pllSys.pd2 p.pllSys.targetVco) ∧
    s.planOp v 4 = some (.pll .aux p.pllAux.refdiv p.pllAux.pd1 p.pllAux.pd2 p.pllAux.targetVco) ∧
    s.planOp v 5 =
      some (.div 0#3 p.domRef.main p.domRef.auxsrc (src p.domRef.main p.domRef.auxsrc s.params.bootHz) p.domRef.destHz) ∧
    s.planOp v 6 =
      some (.div 1#3 p.domSys.main p.domSys.auxsrc (src p.domSys.main p.domSys.auxsrc (s.dom .ref).hz.toNat)
        p.domSys.destHz) ∧
    s.planOp v 7 =
      some (.div 2#3 p.domUsb.main p.domUsb.auxsrc (src p.domUsb.main p.domUsb.auxsrc 0) p.domUsb.destHz) ∧
    s.planOp v 8 =
      some (.div 3#3 p.domAdc.main p.domAdc.auxsrc (src p.domAdc.main p.domAdc.auxsrc 0) p.domAdc.destHz) ∧
    s.planOp v 9 =
      some (.div 4#3 p.domRtc.main p.domRtc.auxsrc (src p.domRtc.main p.domRtc.auxsrc 0) p.domRtc.destHz) ∧
    s.planOp v 10 =
      some (.div 5#3 p.domPeri.main p.domPeri.auxsrc (src p.domPeri.main p.domPeri.auxsrc 0) p.domPeri.destHz) ∧
    s.planOp v 11 = some (.release s.params.periphAll) ∧
    (∀ k, 12 ≤ k → s.planOp false k = none) ∧
    (∀ k, 12 ≤ k → k ≤ 17 →
      s.planOp true k =
        some (.fc (BitVec.ofNat 8 (4 + (k - 12))) (BitVec.ofNat 32 ((s.dom .ref).hz.toNat / 1000)))) ∧
    (List.range 18).map fsmAfter =
      [.powerOnReset, .peripheralsHeld, .oscillatorStable, .oscillatorStable, .pllsLocked, .referenceClockRouted,
        .systemClockRouted, .systemClockRouted, .systemClockRouted, .systemClockRouted, .derivedClocksConfigured,
        .allPeripheralsReleased, .allPeripheralsReleased, .allPeripheralsReleased, .allPeripheralsReleased,
        .allPeripheralsReleased, .allPeripheralsReleased, .allPeripheralsReleased]

/-- BRINGUP runs each sub-operation as the named command runs (46_bringup_sequencer.md R187, R189): wherever a command of its
own and BRINGUP run the operation `o`, each makes the step that one micro-operation of `o` (`runOp`) gives. While the operation
goes on, both answer the same state; at its end the command writes x[i] and completes, BRINGUP goes to the next sub-operation; a
rejection ends the command and is fatal to BRINGUP; a timeout is fatal to both, with STAGE 0 and FSM + 1. -/
def Obligations.SubOperationsAreCommands : Prop :=
  ∀ (s : State) (o : Op),
    (∀ i : Instr, (∀ v, i ≠ .bringup v) → s.opOf i = some o → s.step ≠ 0#8 ∨ s.fsm = .powerOnReset →
      (∀ t, runOp o s = .cont t → exec i s = .next t) ∧
      (∀ t xs, runOp o s = .finish t xs → exec i s = .next (t.setResults xs).complete) ∧
      (∀ r, runOp o s = .reject r → exec i s = .next (s.reject r o.opcode o.unit)) ∧
      (∀ w x, runOp o s = .timeout w x → exec i s = .next (s.fatal ⟨w.cause, x⟩ 0#4 o.opcode o.unit))) ∧
    (∀ v : Bool, s.planOp v s.sub.toNat = some o → s.sub ≠ 0#8 ∨ s.step ≠ 0#8 ∨ s.fsm = .powerOnReset →
      (∀ t, runOp o s = .cont t → exec (.bringup v) s = .next t) ∧
      (∀ t xs, runOp o s = .finish t xs → exec (.bringup v) s = .next (t.nextSub s.sub.toNat)) ∧
      (∀ r, runOp o s = .reject r → exec (.bringup v) s = .next (s.fatal r (s.fsm.code + 1#4) o.opcode o.unit)) ∧
      (∀ w x, runOp o s = .timeout w x →
        exec (.bringup v) s = .next (s.fatal ⟨w.cause, x⟩ (s.fsm.code + 1#4) o.opcode o.unit)))

/-! ### Errors (60_exceptions.md R200 to R206) -/

/-- A rejection is precise (60_exceptions.md R201, R206): a command issued in an idle state that its first micro-operation
ends with ERROR leaves every register but CMD, STATUS, ERR and ERRSNAP, FSM and the trace as before, and the engine idle. -/
def Obligations.RejectKeepsState : Prop :=
  ∀ (s t : State) (w : Word) (i : Instr), s.Positioned → s.busy = false → decode w = .ok i →
    exec i (s.issue w) = .next t → t.error = true →
    t.busy = false ∧ t.done = false ∧ t.fsm = s.fsm ∧ t.sub = 0#8 ∧ t.step = 0#8 ∧ t.trace = s.trace ∧
      t.cmd = w ∧ t.err.stage = 0#4 ∧ t.err.cause ≠ .none ∧
      ∀ r, r ≠ .cmd → r ≠ .status → r ≠ .err → r ≠ .errsnap → t.regRead r = s.regRead r

/-- A fatal ending is precise (60_exceptions.md R202, R206): it changes FSM to Failed, STATUS, ERR, ERRSNAP and POLLCNT only;
every register keeps what the completed micro-operations left, and the trace gains nothing. -/
def Obligations.FatalKeepsState : Prop :=
  ∀ (s t : State) (i : Instr), s.fsm ≠ .failed → exec i s = .next t → t.fsm = .failed →
    t.busy = false ∧ t.error = true ∧ t.done = s.done ∧ t.sub = 0#8 ∧ t.step = 0#8 ∧ t.pollcnt = 0#32 ∧
      t.trace = s.trace ∧ t.err.cause ≠ .none ∧
      ((∃ v, i = .bringup v) → t.err.stage = s.fsm.code + 1#4) ∧ ((∀ v, i ≠ .bringup v) → t.err.stage = 0#4) ∧
      ∀ r, r ≠ .status → r ≠ .err → r ≠ .errsnap → r ≠ .pollcnt → t.regRead r = s.regRead r

/-- Failed is final (60_exceptions.md R202, 10_state.md R14): no step leaves it or changes the report, the position, x[i],
WAIT_LIMIT, CMD, the trace or a register the engine writes; only the environment's status bits, OVERRUN and the port move. -/
def Obligations.FailedFinal : Prop :=
  ∀ (s t : State), s.fsm = .failed → step s = .next t →
    t.fsm = .failed ∧ t.busy = s.busy ∧ t.done = s.done ∧ t.error = s.error ∧ t.err = s.err ∧ t.errsnap = s.errsnap ∧
      t.sub = s.sub ∧ t.step = s.step ∧ t.pollcnt = s.pollcnt ∧ t.trace = s.trace ∧
      ∀ r, r ≠ .status → r ≠ .rstDone → r ≠ .oscStatus → (∀ p, r ≠ .pllCs p) → (∀ d, r ≠ .clkSelected d) →
        r ≠ .fcStatus → r ≠ .fcResult → t.regRead r = s.regRead r

/-! ### Frames: what a command leaves unchanged. `footprint` lists the registers a command may change; every byte of the
register space outside them reads as before, so every x[i], every flag and every special register not listed. `sameResults` is
70_reset_and_hazards.md R249 of one step. -/

/-- Frame of NOP, RST_HOLD, RST_RELEASE and OSC_START (40_reset_controller.md R101, R102, 41_oscillator.md R111,
46_bringup_sequencer.md R185): of x[i] at most x[4] (and x[5] for OSC_START); FSM changes only to Failed; STABLE and the bits of
RST_DONE are set by the environment alone (10_state.md R51, R52); and a step that leaves DONE 0 keeps every result and description
register (70_reset_and_hazards.md R249), OSC_FREQ by the parameter of log entry 28. -/
def Obligations.ResetOscNopFrame : Prop :=
  ∀ (i : Instr) (s t : State), i = .nop ∨ i = .rstHold ∨ i = .rstRelease ∨ i = .oscStart → exec i s = .next t →
    s.sameBytesOutside t (footprint i) ∧ s.sameSurroundings t ∧ (t.fsm = s.fsm ∨ t.fsm = .failed) ∧
      t.osc.stable = s.osc.stable ∧ t.rstDone &&& ~~~s.rstDone = 0#32 ∧ (t.done = false → s.sameResults t)

/-- Frame of PLL_CFG (42_pll_engine.md R124): the registers of its own PLL and x[4] to x[7]; the other PLL, every domain and
every other register are unchanged; LOCK is set by the environment alone (10_state.md R53); and a step that leaves DONE 0 keeps
every result and description register (70_reset_and_hazards.md R249). -/
def Obligations.PllCfgFrame : Prop :=
  ∀ (s t : State) (p : PllId) (refdiv : BitVec 6) (pd1 pd2 : BitVec 3),
    (∀ o, s.opOf (.pllCfg p refdiv pd1 pd2) = some o → o.inFlight s) →
    exec (.pllCfg p refdiv pd1 pd2) s = .next t →
    s.sameBytesOutside t (footprint (.pllCfg p refdiv pd1 pd2)) ∧ s.sameSurroundings t ∧
      (t.fsm = s.fsm ∨ t.fsm = .failed) ∧ ((t.pll p).lock = true → (s.pll p).lock = true) ∧
      (t.done = false → s.sameResults t)

/-- Frame of MUX_SWITCH and DIV_APPLY (43_clock_mux.md R143, 44_clock_divider.md R152): CLK_CTRL of the named domain, for
DIV_APPLY also its CLK_DIV, DOM_HZ and DOM_VALID, and x[4], x[5]; DOM_VALID keeps every other domain's bit; and a step that
leaves DONE 0 keeps every result and description register (70_reset_and_hazards.md R249). -/
def Obligations.ClockCommandsFrame : Prop :=
  ∀ (s t : State) (dom : BitVec 3) (main : Path) (auxsrc : BitVec 3) (i : Instr),
    i = .muxSwitch dom main auxsrc ∨ i = .divApply dom main auxsrc →
    (∀ o, s.opOf i = some o → o.inFlight s) → exec i s = .next t →
    s.sameBytesOutside t (footprint i) ∧ s.sameSurroundings t ∧ (t.fsm = s.fsm ∨ t.fsm = .failed) ∧
      (t.done = false → s.sameResults t) ∧ ∀ d : Dom, d.index ≠ dom.toNat → t.dom d = s.dom d

/-- Frame of FC_MEASURE (45_frequency_counter.md R172): the counter's registers but FC_RESULT, and x[4], x[5]; "It changes no
clock, PLL, oscillator or reset state." FC_STATUS.DONE, PASS and FAIL are set by the environment alone (10_state.md R55);
and a step that leaves STATUS.DONE 0 keeps every result and description register (70_reset_and_hazards.md R249). -/
def Obligations.FcMeasureFrame : Prop :=
  ∀ (s t : State) (src : BitVec 8), exec (.fcMeasure src) s = .next t →
    s.sameBytesOutside t (footprint (.fcMeasure src)) ∧ s.sameSurroundings t ∧ (t.fsm = s.fsm ∨ t.fsm = .failed) ∧
      t.osc = s.osc ∧ t.plls = s.plls ∧ t.doms = s.doms ∧ t.rstCtrl = s.rstCtrl ∧ t.rstDone = s.rstDone ∧
      (t.fc.done = true → s.fc.done = true) ∧ (t.fc.pass = true → s.fc.pass = true) ∧ (t.fc.fail = true → s.fc.fail = true) ∧
      (t.done = false → s.sameResults t)

/-- Frame of BRINGUP (46_bringup_sequencer.md R187): no x[i], not CMD, not WAIT_LIMIT, not CLK_SELECTED, not FC_RESULT; the
status bits RST_DONE, STABLE, LOCK, DONE, PASS and FAIL are set by the environment alone (10_state.md R51 to R55). -/
def Obligations.BringupFrame : Prop :=
  ∀ (s t : State) (v : Bool), exec (.bringup v) s = .next t →
    s.sameBytesOutside t (footprint (.bringup v)) ∧ s.sameSurroundings t ∧ t.x = s.x ∧ t.cmd = s.cmd ∧
      t.waitLimit = s.waitLimit ∧ t.osc.stable = s.osc.stable ∧ t.rstDone &&& ~~~s.rstDone = 0#32 ∧
      (∀ p, (t.pll p).lock = true → (s.pll p).lock = true) ∧ (t.fc.done = true → s.fc.done = true) ∧
      (t.fc.pass = true → s.fc.pass = true) ∧ (t.fc.fail = true → s.fc.fail = true)

/-! ### Arithmetic -/

/-- `startup_delay` (41_oscillator.md R112): the least d with f ≤ 256000 d, non-decreasing in f, with the rule's values. -/
def Obligations.StartupDelayIsCeil : Prop :=
  (∀ f, f ≤ 256000 * startupDelay f ∧ 256000 * startupDelay f < f + 256000) ∧
  (∀ f g, f ≤ g → startupDelay f ≤ startupDelay g) ∧
  [12000000, 1000000, 8000000, 12288000, 15000000, 256000, 256001].map startupDelay = [47, 4, 32, 48, 59, 1, 2]

/-- The solver (42_pll_engine.md R121, R123, R126): where the validation passes, fbdiv is in [16, 320], vco_hz in the band
and at most target_vco, and both are kept without loss; and the worked values of R127. -/
def Obligations.SolverIsSound : Prop :=
  (∀ (s : State) (p : PllId) (refdiv : BitVec 6) (pd1 pd2 : BitVec 3) (target : Word),
    s.pllRejection p refdiv pd1 pd2 target = none →
    16 ≤ solveFbdiv s.oscFreq refdiv target ∧ solveFbdiv s.oscFreq refdiv target ≤ 320 ∧
    s.params.vcoMinHz ≤ solveVcoHz s.oscFreq refdiv target ∧ solveVcoHz s.oscFreq refdiv target ≤ s.params.vcoMaxHz ∧
    solveVcoHz s.oscFreq refdiv target ≤ target.toNat ∧
    target.toNat < solveVcoHz s.oscFreq refdiv target + refHz s.oscFreq refdiv ∧
    (BitVec.ofNat 9 (solveFbdiv s.oscFreq refdiv target)).toNat = solveFbdiv s.oscFreq refdiv target ∧
    (BitVec.ofNat 32 (solveVcoHz s.oscFreq refdiv target)).toNat = solveVcoHz s.oscFreq refdiv target) ∧
  [solveFbdiv 12000000#32 1#6 1500000000#32, solveFbdiv 12000000#32 1#6 100000000#32,
    solveFbdiv 12000000#32 1#6 480000000#32, solveFbdiv 12000000#32 1#6 191999999#32,
    solveFbdiv 12000000#32 1#6 3840000000#32, solveFbdiv 12000000#32 1#6 3852000000#32,
    solveFbdiv 12000000#32 2#6 1500000000#32, solveVcoHz 12000000#32 1#6 1499999999#32,
    solveFbdiv 12000000#32 7#6 1500000000#32] = [125, 8, 40, 15, 320, 321, 250, 1488000000, 875] ∧
  pllOutHz 1500000000#32 6#3 2#3 = 125000000#32 ∧ pllOutHz 480000000#32 5#3 2#3 = 48000000#32

/-- The divisor (44_clock_divider.md R151, R156): where the checks (c) to (e) pass, it is a 24.8 value from 256 to 2^32 - 1,
and the achieved frequency is at least dst, at most src, and exceeds dst by less than dst / div; and the values of R157. -/
def Obligations.DivisorIsSound : Prop :=
  (∀ (src : Nat) (dst : Word), divisorRejection src dst = none →
    let d := divisorOf src dst.toNat
    256 ≤ d ∧ d < 2 ^ 32 ∧ dst.toNat ≤ achievedHz src (BitVec.ofNat 32 d) ∧ achievedHz src (BitVec.ofNat 32 d) ≤ src ∧
    (achievedHz src (BitVec.ofNat 32 d) - dst.toNat) * d < dst.toNat) ∧
  (∀ src, 0 < src → divisorOf src src = 256) ∧ (∀ half, 0 < half → divisorOf (2 * half) half = 512) ∧
  divisorOf 48000000 46875 = 262144 ∧ divisorOf 125000000 48000000 = 666 ∧
  achievedHz 125000000 666#32 = 48048048

/-- The counter's resolution (45_frequency_counter.md R174): with a stated reference K kHz that is true, a source of true
frequency a / b Hz and a window W, the result R that the environment computes satisfies |R - a/(1000 b)| < K / W + 1, for
either rounding of the count, as long as it does not saturate; and the values of R175. -/
def Obligations.CounterResolution : Prop :=
  (∀ (a b k w : Nat) (up : Bool) (refKhz : Word), 0 < b → 0 < k → 0 < w → refKhz.toNat = k →
    let c := (edgeCount ⟨a, b⟩ (Freq.ofHz (1000 * k)) w).round up
    let r := (scaledResult c refKhz w).toNat
    c * k / w < 2 ^ 32 →
    r * (1000 * b * w) < a * w + 1000 * b * k + 1000 * b * w ∧
    a * w < r * (1000 * b * w) + 1000 * b * k + 1000 * b * w) ∧
  (windowOf 12000#32 10#4 = 12288 ∧
    [125000000, 48000000, 12000000, 46875, 0, 48048048].map (fun f =>
      [false, true].map (fun up =>
        (scaledResult ((edgeCount (Freq.ofHz f) (Freq.ofHz 12000000) 12288).round up) 12000#32 12288).toNat)) =
    [[125000, 125000], [48000, 48000], [12000, 12000], [46, 46], [0, 0], [48047, 48048]])

/-! ### The environment and the clocks (10_state.md R44, R50 to R55, 43_clock_mux.md R144) -/

/-- The steps of the environment, each with its enabling condition and its one effect (10_state.md R51 to R55,
45_frequency_counter.md R174); a step that is not enabled changes nothing (log entry 10). With them the true frequencies the
steps read, as exact rationals of Hz, by the formulas of R44 (`hz` of a fraction; AUXSRC = 3 of a two-stage domain, which R35
excludes, and a zero divisor give 0: log entry 14), and the counter's sources by the table of R38. -/
def Obligations.EnvironmentSteps : Prop :=
  ∀ s : State,
    (∀ p : Fin 32, s.envStep (.resetDone p) =
      if s.rstCtrl.getLsbD p = false ∧ s.rstDone.getLsbD p = false ∧ s.params.periphAll.getLsbD p = true then
        { s with rstDone := s.rstDone ||| (1#32 <<< p.val) } else s) ∧
    s.envStep .oscStable =
      (if s.osc.enable = true ∧ s.osc.stable = false then { s with osc := { s.osc with stable := true } } else s) ∧
    (∀ p, s.envStep (.pllLock p) =
      if (s.pll p).corePd = false ∧ (s.pll p).vcoPd = false ∧ 16 ≤ (s.pll p).fbdiv.toNat ∧ (s.pll p).fbdiv.toNat ≤ 320 ∧
          s.osc.enable = true ∧ s.osc.stable = true ∧ 0 < s.params.xtalHz ∧ (s.pll p).lock = false then
        s.setPll p { s.pll p with lock := true } else s) ∧
    (∀ d : Dom, d.twoStage = false → s.envStep (.muxFlip d) = s) ∧
    (∀ d : Dom, d.twoStage = true → s.envStep (.muxFlip d) =
      if (s.dom d).main ≠ (s.dom d).selected ∧ (s.refIn d).pos = true ∧ (s.auxInTwoStage (s.dom d).auxsrc).pos = true then
        s.setDom d { s.dom d with selected := (s.dom d).main } else s) ∧
    (∀ up, s.fc.running = true → (s.fOut .ref).pos = true →
      ∃ c r : Nat,
        c = (edgeCount (s.fSource s.fc.measured) (s.fOut .ref) s.fc.window).round up ∧
        r = min (2 ^ 32 - 1) (c * s.fc.refKhz.toNat / s.fc.window) ∧
        s.envStep (.fcDone up) =
          { s with
            fc := { s.fc with
              running := false, done := true, edges := c, result := BitVec.ofNat 32 r,
              pass := decide (s.fc.minKhz.toNat ≤ r ∧ r ≤ s.fc.maxKhz.toNat),
              fail := !decide (s.fc.minKhz.toNat ≤ r ∧ r ≤ s.fc.maxKhz.toNat) } }) ∧
    (∀ up, ¬(s.fc.running = true ∧ (s.fOut .ref).pos = true) → s.envStep (.fcDone up) = s) ∧
    (let hz (f : Freq) : ℚ := f.num / f.den
    let auxIn (d : Dom) : ℚ :=
      match (s.dom d).auxsrc.toNat with
      | 0 => hz s.fXosc
      | 1 => hz (s.fPll .sys)
      | 2 => hz (s.fPll .aux)
      | 3 => if d.twoStage then 0 else hz (s.fOut .sys)
      | _ => 0
    hz s.fBoot = s.params.bootHz ∧
    hz s.fXosc = (if s.osc.enable = true ∧ s.osc.stable = true then (s.params.xtalHz : ℚ) else 0) ∧
    (∀ p, hz (s.fVco p) =
      if (s.pll p).lock = true then hz s.fXosc * (s.pll p).fbdiv.toNat / (s.pll p).refdiv.toNat else 0) ∧
    (∀ p, hz (s.fPll p) =
      if (s.pll p).lock = true ∧ (s.pll p).postdivPd = false then
        hz (s.fVco p) / ((s.pll p).postdiv1.toNat * (s.pll p).postdiv2.toNat) else 0) ∧
    s.refIn .ref = s.fBoot ∧ s.refIn .sys = s.fOut .ref ∧
    (∀ d : Dom, d.twoStage = true → hz (s.auxInTwoStage (s.dom d).auxsrc) = auxIn d) ∧
    (∀ d : Dom, hz (s.fOut d) =
      (if d.twoStage = true then if s.regRead (.clkSelected d) = 0b01#32 then hz (s.refIn d) else auxIn d
        else if (s.dom d).enable = true then auxIn d else 0) * 256 / (s.regRead (.clkDiv d)).toNat) ∧
    hz (s.fSource 0#8) = 0 ∧ s.fSource 1#8 = s.fXosc ∧ s.fSource 2#8 = s.fPll .sys ∧ s.fSource 3#8 = s.fPll .aux ∧
    (∀ d : Dom, s.fSource (BitVec.ofNat 8 (4 + d.index)) = s.fOut d) ∧ s.fSource 10#8 = s.fBoot)

/-- The glitch-free switch (43_clock_mux.md R144, 10_state.md R44, R54): a write of MAIN does not move the output of a
two-stage domain, the flip moves it in one step from the old input to the requested one, and a write of AUXSRC while the
reference path drives the domain does not move it. -/
def Obligations.GlitchFreeSwitch : Prop :=
  ∀ (s : State) (d : Dom), d.twoStage = true →
    (∀ m, (s.writeMain d m).fOut d = s.fOut d) ∧
    (∀ a, (s.dom d).selected = .reference → (s.writeAuxsrc d a).fOut d = s.fOut d) ∧
    s.fOut d = (s.dom d).outOf (s.pathIn (s.dom d) (s.refIn d) (s.dom d).selected) ∧
    (s.canMuxFlip d = true →
      (s.envStep (.muxFlip d)).fOut d = (s.dom d).outOf (s.pathIn (s.dom d) (s.refIn d) (s.dom d).main))

/-- What no step undoes: the oscillator stays enabled (41_oscillator.md R110), STABLE never returns to 0 (10_state.md R52),
BADWRITE only goes to 0 (R25), DOM_VALID bits stay set (R17), the parameters never change (R10), the trace only grows
(20_memory.md R68). -/
def Obligations.NothingUndone : Prop :=
  ∀ s t : State, step s = .next t →
    (s.osc.enable = true → t.osc.enable = true) ∧ (s.osc.stable = true → t.osc.stable = true) ∧
    (t.osc.badWrite = true → s.osc.badWrite = true) ∧ (∀ d, (s.dom d).valid = true → (t.dom d).valid = true) ∧
    t.params = s.params ∧ ∃ es, t.trace = s.trace ++ es

/-! ### Reset (10_state.md R48, 70_reset_and_hazards.md R230, R231) -/

/-- What power-on reset leaves (10_state.md R48): every register of the table, the hidden state empty, the boot clock on REF
and SYS and every gated domain stopped. BADWRITE is the drawn value `b`. -/
def Obligations.ResetValues : Prop :=
  ∀ (p : Config.Params) (b : Bool) (ms : List Move),
    let s := State.powerOn p b ms
    (∀ i : Fin 8, s.regRead (.x i) = 0#32) ∧
    [Reg.cmd, .status, .err, .errsnap, .pollcnt, .domValid, .oscFreq, .rstDone, .oscCtrl, .oscStartup, .fcRefKhz, .fcMinKhz,
      .fcMaxKhz, .fcInterval, .fcSrc, .fcStatus, .fcResult].all (fun r => s.regRead r == 0#32) = true ∧
    s.regRead .waitLimit = p.waitLimitReset ∧ s.regRead .rstCtrl = p.periphAll ∧
    s.regRead .oscStatus = (if b then 0x01000000#32 else 0#32) ∧
    (∀ q, s.regRead (.pllVcoHz q) = 0#32 ∧ s.regRead (.pllOutHz q) = 0#32 ∧ s.regRead (.pllCs q) = 1#32 ∧
      s.regRead (.pllPwr q) = 0b111#32 ∧ s.regRead (.pllFbdiv q) = 0#32 ∧ s.regRead (.pllPrim q) = 0x77#32) ∧
    (∀ d : Dom, s.regRead (.domHz d) = 0#32 ∧ s.regRead (.domMeasKhz d) = 0#32 ∧ s.regRead (.clkCtrl d) = 0#32 ∧
      s.regRead (.clkDiv d) = 0x100#32 ∧ s.regRead (.clkSelected d) = (if d.twoStage then 0b01#32 else 0b10#32)) ∧
    s.work = .idle ∧ s.trace = [] ∧ s.fc.running = false ∧
    (∀ d : Dom, (s.fOut d).num = (if d.twoStage then p.bootHz else 0) * (s.fOut d).den ∧ 0 < (s.fOut d).den)

/-- Every invariant of this file holds after power-on reset, for every value of the parameters that 00_scope.md R5 allows,
either drawn BADWRITE and every schedule; `State.reset` is one of these states (log entries 3, 4). -/
def Obligations.ResetSatisfiesInvariants : Prop :=
  (∀ (p : Config.Params) (b : Bool) (ms : List Move), p.ok = true →
    let s := State.powerOn p b ms
    s.Positioned ∧ s.Ranges ∧ s.ResetLines ∧ s.ResetMask ∧ s.AuxReady ∧ s.LockOrder ∧ s.CounterOwned ∧ s.SwitchOwned ∧
      s.SteppedBack ∧ s.PollsInWait ∧ s.Progress ∧ s.BroughtUp) ∧
  Config.defaultParams.ok = true ∧ State.reset = State.powerOn Config.defaultParams false []

/-! ### Invariants that every step keeps -/

/-- The position (10_state.md R12, R47 (d), (e), 60_exceptions.md R202): an idle engine is at position 0 with nothing in
progress, a busy one is at a micro-operation of the latched command. -/
def Obligations.PositionKept : Prop := ∀ s t : State, s.Positioned → step s = .next t → t.Positioned

/-- The block never stops in the model's sense: from a positioned state every step, whatever the move, answers a next state;
the errors of the block are next states (60_exceptions.md R206) and the two faults of the model, which log entry 9 declares, are
never raised (10_state.md R12, 30_encoding.md R87). -/
def Obligations.NeverStops : Prop := ∀ s : State, s.Positioned → ∃ t, step s = .next t

/-- The field ranges (10_state.md R24, R29, R33, R35, R47 (a), (b)), the reset lines (R22, R23, R51) and POLLCNT (R16) stay
legal at every step. -/
def Obligations.RangesKept : Prop :=
  ∀ s t : State, step s = .next t →
    (s.Ranges → t.Ranges) ∧ (s.ResetLines → t.ResetLines) ∧ (s.PollsInWait → t.PollsInWait)

/-- The ResetMask invariant (10_state.md R47 (f), 40_reset_controller.md R100, R103): no step leaves a peripheral out of reset
while its clock domain is not configured. `PERIPH_ALL` contains the late set, as 00_scope.md R5 requires. -/
def Obligations.ResetMaskKept : Prop :=
  ∀ s t : State, s.params.periphAll &&& Config.lateSet = Config.lateSet → s.ResetMask → step s = .next t → t.ResetMask

/-- No clock in use becomes unconfigured (10_state.md R47 (g), 42_pll_engine.md R123 (e), 43_clock_mux.md R141). -/
def Obligations.AuxReadyKept : Prop := ∀ s t : State, s.AuxReady → step s = .next t → t.AuxReady

/-- The lock order (42_pll_engine.md R125): no step powers a post-divider domain up without lock, or unlocks a PLL whose
post-divider domain is up. -/
def Obligations.LockOrderKept : Prop := ∀ s t : State, s.LockOrder → step s = .next t → t.LockOrder

/-- What is in flight belongs to its Wait: RUNNING = 1 only inside the second Wait of FC_MEASURE or in the Failed state
(45_frequency_counter.md R173); a pending main-stage switch only inside the Wait of a mux sequence or in the Failed state
(10_state.md R43 (d)); and a sequence to another source has stepped back, or disabled its domain, first (43_clock_mux.md R142,
44_clock_divider.md R153). -/
def Obligations.OwnershipKept : Prop :=
  ∀ s t : State, s.Positioned → step s = .next t →
    (s.CounterOwned → t.CounterOwned) ∧ (s.SwitchOwned → t.SwitchOwned) ∧ (s.SteppedBack → t.SteppedBack)

/-- The auxiliary stage changes source only behind a quiet main stage (43_clock_mux.md R142, R144, 44_clock_divider.md R153):
whatever the step, a two-stage domain whose AUXSRC changes is driven by its reference path and keeps its output, and a gated
domain whose AUXSRC changes is disabled. -/
def Obligations.AuxStageQuiet : Prop :=
  ∀ (s t : State), s.Positioned → s.SwitchOwned → s.SteppedBack → step s = .next t →
    ∀ d : Dom, (t.dom d).auxsrc ≠ (s.dom d).auxsrc →
      (d.twoStage = true →
        (s.dom d).selected = .reference ∧ (t.dom d).selected = .reference ∧ t.fOut d = s.fOut d) ∧
      (d.twoStage = false → (s.dom d).enable = false ∧ (t.dom d).enable = false)

/-- What the bring-up has established stays established (46_bringup_sequencer.md R187, R191, R193): each completed
sub-operation's result holds at every later position of BRINGUP and in Ready. -/
def Obligations.BroughtUpKept : Prop :=
  ∀ s t : State, s.Positioned → s.ResetLines → s.LockOrder → s.Progress → s.BroughtUp → step s = .next t →
    t.Progress ∧ t.BroughtUp

/-- FSM is linear (10_state.md R12, 46_bringup_sequencer.md R188, 60_exceptions.md R202): a step keeps it, sends it to Failed,
or, while BRINGUP runs, raises it by one; and nothing leaves Failed. -/
def Obligations.FsmLinear : Prop :=
  ∀ s t : State, s.Positioned → step s = .next t →
    (t.fsm = s.fsm ∨ (s.busy = true ∧ t.fsm = .failed) ∨
      (s.busy = true ∧ (∃ v, decode s.cmd = .ok (.bringup v)) ∧ t.fsm.code.toNat = s.fsm.code.toNat + 1)) ∧
    (s.fsm = .failed → t.fsm = .failed) ∧ (s.fsm = .ready → t.fsm = .ready ∨ t.fsm = .failed)

/-- Immutability after Ready (46_bringup_sequencer.md R195): from a Ready state that the bring-up left, however many steps of
whatever agents follow, the reset, oscillator, PLL and clock registers, DOM_HZ and DOM_VALID keep their values. -/
def Obligations.ReadyImmutable : Prop :=
  ∀ (n : Nat) (s t : State), s.fsm = .ready → s.Positioned → s.SwitchOwned → s.BroughtUp →
    Sys2Proof.core.run n s = .next t →
    (t.fsm = .ready ∨ t.fsm = .failed) ∧ t.rstCtrl = s.rstCtrl ∧ t.rstDone = s.rstDone ∧ t.osc = s.osc ∧
      t.oscFreq = s.oscFreq ∧ t.plls = s.plls ∧ t.doms = s.doms

/-- The invariants of every reachable state (10_state.md R47), for every value of the parameters that 00_scope.md R5 allows
and every schedule of the three agents. -/
def Obligations.ReachableInvariants : Prop :=
  ∀ (p : Config.Params) (b : Bool) (ms : List Move) (n : Nat) (t : State), p.ok = true →
    Sys2Proof.core.run n (State.powerOn p b ms) = .next t →
    (∀ d, 256 ≤ (t.regRead (.clkDiv d)).toNat) ∧
    (∀ q, t.regRead (.pllFbdiv q) = 0#32 ∨
      16 ≤ (t.regRead (.pllFbdiv q)).toNat ∧ (t.regRead (.pllFbdiv q)).toNat ≤ 320) ∧
    (∀ d, t.regRead (.clkSelected d) = 0b01#32 ∨ t.regRead (.clkSelected d) = 0b10#32) ∧
    (t.fsm.code.toNat ≤ 8 ∨ t.fsm.code.toNat = 15) ∧
    (t.busy = false → t.step = 0#8 ∧ t.sub = 0#8 ∧ t.pollcnt = 0#32) ∧
    (∀ k d, clockDep k = some d → (t.regRead .rstCtrl).getLsbD k = false → (t.dom d).valid = true) ∧
    (∀ d : Dom, d.twoStage = true → t.regRead (.clkSelected d) = 0b10#32 → t.auxReady (t.dom d).auxsrc = true) ∧
    (∀ d : Dom, d.twoStage = false → (t.dom d).enable = true → t.auxReady (t.dom d).auxsrc = true)

/-! ### Whole commands: from the issue to Complete, with the environment's step in the Wait. `schedule` is the model's list
of the moves to come (log entry 1); a command's micro-operations are one engine step each (log entry 2). -/

/-- PLL_CFG from issue to Complete (42_pll_engine.md R124): the PLL ends locked and powered with the solved dividers, in the
order of the rule. -/
def Obligations.PllCfgCompletes : Prop :=
  ∀ (s : State) (p : PllId) (refdiv : BitVec 6) (pd1 pd2 : BitVec 3), s.fsm = .powerOnReset →
    s.osc.enable = true → s.osc.stable = true → 0 < s.params.xtalHz →
    s.pllRejection p refdiv pd1 pd2 (s.xr 0) = none →
    let fbdiv := BitVec.ofNat 9 (solveFbdiv s.oscFreq refdiv (s.xr 0))
    let vco := BitVec.ofNat 32 (solveVcoHz s.oscFreq refdiv (s.xr 0))
    let out := pllOutHz vco pd1 pd2
    let locked : Word := 0x80000000#32 ||| refdiv.setWidth 32
    let prim : Word := (pd2.setWidth 32 <<< 4) + pd1.setWidth 32
    ∃ t, Sys2Proof.core.run 11
        { s.issue (encode (.pllCfg p refdiv pd1 pd2)) with
          schedule := [.engine, .engine, .engine, .engine, .engine, .engine, .env (.pllLock p), .engine, .engine, .engine,
            .engine] } = .next t ∧
      t.busy = false ∧ t.done = true ∧ t.error = false ∧ t.fsm = .powerOnReset ∧
      t.plls = s.plls.set p
        { refdiv := refdiv, lock := true, corePd := false, vcoPd := false, postdivPd := false, fbdiv := fbdiv,
          postdiv1 := pd1, postdiv2 := pd2, vcoHz := vco, outHz := out } ∧
      t.x = (((s.x.set 4 (fbdiv.setWidth 32)).set 5 vco).set 6 out).set 7 locked ∧
      t.trace = s.trace ++
        [.write (.pllPwr p) 7#32, .write (.pllFbdiv p) 0#32, .write (.pllCs p) (refdiv.setWidth 32),
          .write (.pllFbdiv p) (fbdiv.setWidth 32), .write (.pllPwr p) 4#32, .wait .pllLock (.pllCs p) locked,
          .write (.pllPrim p) prim, .write (.pllPwr p) 0#32]

/-- DIV_APPLY on a gated domain that is off, from issue to Complete (44_clock_divider.md R152 to R155): nine engine steps and
no Wait; the divisor is written first exactly when it grows, and last in every case. The count of nine rests on log entries 6
(a Settle of 0 takes one step) and 7 (a passed STEP 1 or 6 is a step). -/
def Obligations.DivApplyCompletes : Prop :=
  ∀ (s : State) (dom : BitVec 3) (d : Dom) (auxsrc : BitVec 3), dom.toNat = d.index → d.twoStage = false →
    s.fsm = .powerOnReset → (s.dom d).enable = false → auxsrc.toNat ≤ 3 → s.auxReady auxsrc = true →
    divisorRejection (s.xr 0).toNat (s.xr 1) = none →
    let div := BitVec.ofNat 32 (divisorOf (s.xr 0).toNat (s.xr 1).toNat)
    let hz := BitVec.ofNat 32 (achievedHz (s.xr 0).toNat div)
    ∃ t, Sys2Proof.core.run 9 { s.issue (encode (.divApply dom .auxiliary auxsrc)) with schedule := [] } = .next t ∧
      t.busy = false ∧ t.done = true ∧ t.error = false ∧ t.fsm = .powerOnReset ∧
      t.doms = s.doms.set d
        { s.dom d with auxsrc := auxsrc, enable := true, div := div, hz := hz, valid := true } ∧
      t.x = (s.x.set 4 div).set 5 hz ∧
      t.trace = s.trace ++
        (if (s.dom d).div < div then [.write (.clkDiv d) div] else []) ++
        [.write (.clkCtrl d) (clkCtrlWord .reference (s.dom d).auxsrc false), .settle 0,
          .write (.clkCtrl d) (clkCtrlWord .reference auxsrc false),
          .write (.clkCtrl d) (clkCtrlWord .reference auxsrc true), .write (.clkDiv d) div]

/-- FC_MEASURE from issue to Complete (45_frequency_counter.md R172, R174): seven engine steps, the counter finishes, two
engine steps; x[4] is the scaled count of the source against REF and x[5] = 6; in PowerOnReset and in Ready. -/
def Obligations.FcMeasureCompletes : Prop :=
  ∀ (s : State) (src : BitVec 8) (up : Bool), s.fsm = .powerOnReset ∨ s.fsm = .ready → src ≠ 0#8 → src.toNat ≤ 10 →
    windowOf (s.xr 0) s.params.fcIntervalFixed ≠ 0 → s.fc.running = false → (s.fOut .ref).pos = true →
    let w := windowOf (s.xr 0) s.params.fcIntervalFixed
    let r := scaledResult ((edgeCount (s.fSource src) (s.fOut .ref) w).round up) (s.xr 0) w
    ∃ t, Sys2Proof.core.run 10
        { s.issue (encode (.fcMeasure src)) with
          schedule := [.engine, .engine, .engine, .engine, .engine, .engine, .engine, .env (.fcDone up), .engine, .engine] }
        = .next t ∧
      t.busy = false ∧ t.done = true ∧ t.error = false ∧ t.fsm = s.fsm ∧ t.x = (s.x.set 4 r).set 5 6#32 ∧
      t.regRead .fcResult = r ∧ t.regRead .fcStatus = 6#32 ∧ t.osc = s.osc ∧ t.plls = s.plls ∧ t.doms = s.doms

/-- BRINGUP with the default plan and V = 1, from `State.reset` to Ready, with the environment answering in each Wait
(46_bringup_sequencer.md R187, R190, R192; 95_test_vectors.md P1): the achieved and the measured frequencies, the reset lines
and the end of the command. The parameter values the spec leaves open are those of log entry 3; the 163 moves and their places
rest on log entries 6 (a Settle of 0 takes one step), 7 (a passed micro-operation is a step) and 8 (where BRINGUP ends). -/
def Obligations.DefaultBringupReachesReady : Prop :=
  ∃ t, Sys2Proof.core.run 163
      { State.reset.issue 0x70000001#32 with
        schedule :=
          List.replicate 11 .engine ++ [.env .oscStable] ++ List.replicate 8 .engine ++ [.env (.pllLock .sys)] ++
          List.replicate 10 .engine ++ [.env (.pllLock .aux)] ++ List.replicate 10 .engine ++ [.env (.muxFlip .ref)] ++
          List.replicate 9 .engine ++ [.env (.muxFlip .sys)] ++ List.replicate 41 .engine ++
          [.env (.resetDone 0), .env (.resetDone 1), .env (.resetDone 2), .env (.resetDone 3), .env (.resetDone 4),
            .env (.resetDone 5), .env (.resetDone 6)] ++ List.replicate 2 .engine ++
          (List.replicate 6 (List.replicate 7 .engine ++ [.env (.fcDone false)] ++ List.replicate 2 .engine)).flatten }
      = .next t ∧
    t.regRead .status = 0x82#32 ∧ t.regRead .err = 0#32 ∧ t.schedule = [] ∧
    Dom.all.map (fun d => (t.dom d).hz) =
      [12000000#32, 125000000#32, 48000000#32, 48000000#32, 46875#32, 125000000#32] ∧
    Dom.all.map (fun d => (t.dom d).measKhz) = [12000#32, 125000#32, 48000#32, 48000#32, 46#32, 125000#32] ∧
    Dom.all.map (fun d => t.regRead (.clkCtrl d)) = [0x001#32, 0x011#32, 0x820#32, 0x820#32, 0x820#32, 0x830#32] ∧
    Dom.all.map (fun d => t.regRead (.clkDiv d)) =
      [0x100#32, 0x100#32, 0x100#32, 0x100#32, 0x00040000#32, 0x100#32] ∧
    Dom.all.map (fun d => t.regRead (.clkSelected d)) = [2#32, 2#32, 2#32, 2#32, 2#32, 2#32] ∧
    [t.regRead (.pllVcoHz .sys), t.regRead (.pllOutHz .sys), t.regRead (.pllVcoHz .aux), t.regRead (.pllOutHz .aux)] =
      [1500000000#32, 125000000#32, 480000000#32, 48000000#32] ∧
    t.regRead .rstCtrl = 0#32 ∧ t.regRead .rstDone = 0x7F#32 ∧ t.regRead .domValid = 0x3F#32 ∧ t.x = State.reset.x
end

