-- ==== Sys2Proof/Laws/State.lean ====
section
/-! SUPPORT. The small lemmas of the state's updates: one per field per update, true by rfl, so that no later
proof unfolds a record update; and the read-after-write lemmas of the two banks. -/

namespace Sys2Proof.Machine

/-! ### setPll -/

@[simp] theorem State.setPll_params (s : State) (p : PllId) (v : Pll) : (s.setPll p v).params = s.params := rfl
@[simp] theorem State.setPll_x (s : State) (p : PllId) (v : Pll) : (s.setPll p v).x = s.x := rfl
@[simp] theorem State.setPll_fsm (s : State) (p : PllId) (v : Pll) : (s.setPll p v).fsm = s.fsm := rfl
@[simp] theorem State.setPll_sub (s : State) (p : PllId) (v : Pll) : (s.setPll p v).sub = s.sub := rfl
@[simp] theorem State.setPll_step (s : State) (p : PllId) (v : Pll) : (s.setPll p v).step = s.step := rfl
@[simp] theorem State.setPll_busy (s : State) (p : PllId) (v : Pll) : (s.setPll p v).busy = s.busy := rfl
@[simp] theorem State.setPll_done (s : State) (p : PllId) (v : Pll) : (s.setPll p v).done = s.done := rfl
@[simp] theorem State.setPll_error (s : State) (p : PllId) (v : Pll) : (s.setPll p v).error = s.error := rfl
@[simp] theorem State.setPll_overrun (s : State) (p : PllId) (v : Pll) : (s.setPll p v).overrun = s.overrun := rfl
@[simp] theorem State.setPll_cmd (s : State) (p : PllId) (v : Pll) : (s.setPll p v).cmd = s.cmd := rfl
@[simp] theorem State.setPll_err (s : State) (p : PllId) (v : Pll) : (s.setPll p v).err = s.err := rfl
@[simp] theorem State.setPll_errsnap (s : State) (p : PllId) (v : Pll) : (s.setPll p v).errsnap = s.errsnap := rfl
@[simp] theorem State.setPll_waitLimit (s : State) (p : PllId) (v : Pll) : (s.setPll p v).waitLimit = s.waitLimit := rfl
@[simp] theorem State.setPll_pollcnt (s : State) (p : PllId) (v : Pll) : (s.setPll p v).pollcnt = s.pollcnt := rfl
@[simp] theorem State.setPll_oscFreq (s : State) (p : PllId) (v : Pll) : (s.setPll p v).oscFreq = s.oscFreq := rfl
@[simp] theorem State.setPll_rstCtrl (s : State) (p : PllId) (v : Pll) : (s.setPll p v).rstCtrl = s.rstCtrl := rfl
@[simp] theorem State.setPll_rstDone (s : State) (p : PllId) (v : Pll) : (s.setPll p v).rstDone = s.rstDone := rfl
@[simp] theorem State.setPll_osc (s : State) (p : PllId) (v : Pll) : (s.setPll p v).osc = s.osc := rfl
@[simp] theorem State.setPll_plls (s : State) (p : PllId) (v : Pll) : (s.setPll p v).plls = s.plls.set p v := rfl
@[simp] theorem State.setPll_doms (s : State) (p : PllId) (v : Pll) : (s.setPll p v).doms = s.doms := rfl
@[simp] theorem State.setPll_fc (s : State) (p : PllId) (v : Pll) : (s.setPll p v).fc = s.fc := rfl
@[simp] theorem State.setPll_work (s : State) (p : PllId) (v : Pll) : (s.setPll p v).work = s.work := rfl
@[simp] theorem State.setPll_trace (s : State) (p : PllId) (v : Pll) : (s.setPll p v).trace = s.trace := rfl
@[simp] theorem State.setPll_schedule (s : State) (p : PllId) (v : Pll) : (s.setPll p v).schedule = s.schedule := rfl
@[simp] theorem State.setPll_busReply (s : State) (p : PllId) (v : Pll) : (s.setPll p v).busReply = s.busReply := rfl

/-! ### setDom -/

@[simp] theorem State.setDom_params (s : State) (d : Dom) (v : Domain) : (s.setDom d v).params = s.params := rfl
@[simp] theorem State.setDom_x (s : State) (d : Dom) (v : Domain) : (s.setDom d v).x = s.x := rfl
@[simp] theorem State.setDom_fsm (s : State) (d : Dom) (v : Domain) : (s.setDom d v).fsm = s.fsm := rfl
@[simp] theorem State.setDom_sub (s : State) (d : Dom) (v : Domain) : (s.setDom d v).sub = s.sub := rfl
@[simp] theorem State.setDom_step (s : State) (d : Dom) (v : Domain) : (s.setDom d v).step = s.step := rfl
@[simp] theorem State.setDom_busy (s : State) (d : Dom) (v : Domain) : (s.setDom d v).busy = s.busy := rfl
@[simp] theorem State.setDom_done (s : State) (d : Dom) (v : Domain) : (s.setDom d v).done = s.done := rfl
@[simp] theorem State.setDom_error (s : State) (d : Dom) (v : Domain) : (s.setDom d v).error = s.error := rfl
@[simp] theorem State.setDom_overrun (s : State) (d : Dom) (v : Domain) : (s.setDom d v).overrun = s.overrun := rfl
@[simp] theorem State.setDom_cmd (s : State) (d : Dom) (v : Domain) : (s.setDom d v).cmd = s.cmd := rfl
@[simp] theorem State.setDom_err (s : State) (d : Dom) (v : Domain) : (s.setDom d v).err = s.err := rfl
@[simp] theorem State.setDom_errsnap (s : State) (d : Dom) (v : Domain) : (s.setDom d v).errsnap = s.errsnap := rfl
@[simp] theorem State.setDom_waitLimit (s : State) (d : Dom) (v : Domain) : (s.setDom d v).waitLimit = s.waitLimit := rfl
@[simp] theorem State.setDom_pollcnt (s : State) (d : Dom) (v : Domain) : (s.setDom d v).pollcnt = s.pollcnt := rfl
@[simp] theorem State.setDom_oscFreq (s : State) (d : Dom) (v : Domain) : (s.setDom d v).oscFreq = s.oscFreq := rfl
@[simp] theorem State.setDom_rstCtrl (s : State) (d : Dom) (v : Domain) : (s.setDom d v).rstCtrl = s.rstCtrl := rfl
@[simp] theorem State.setDom_rstDone (s : State) (d : Dom) (v : Domain) : (s.setDom d v).rstDone = s.rstDone := rfl
@[simp] theorem State.setDom_osc (s : State) (d : Dom) (v : Domain) : (s.setDom d v).osc = s.osc := rfl
@[simp] theorem State.setDom_plls (s : State) (d : Dom) (v : Domain) : (s.setDom d v).plls = s.plls := rfl
@[simp] theorem State.setDom_doms (s : State) (d : Dom) (v : Domain) : (s.setDom d v).doms = s.doms.set d v := rfl
@[simp] theorem State.setDom_fc (s : State) (d : Dom) (v : Domain) : (s.setDom d v).fc = s.fc := rfl
@[simp] theorem State.setDom_work (s : State) (d : Dom) (v : Domain) : (s.setDom d v).work = s.work := rfl
@[simp] theorem State.setDom_trace (s : State) (d : Dom) (v : Domain) : (s.setDom d v).trace = s.trace := rfl
@[simp] theorem State.setDom_schedule (s : State) (d : Dom) (v : Domain) : (s.setDom d v).schedule = s.schedule := rfl
@[simp] theorem State.setDom_busReply (s : State) (d : Dom) (v : Domain) : (s.setDom d v).busReply = s.busReply := rfl

/-! ### traced -/

@[simp] theorem State.traced_params (s : State) (e : TraceEntry) : (s.traced e).params = s.params := rfl
@[simp] theorem State.traced_x (s : State) (e : TraceEntry) : (s.traced e).x = s.x := rfl
@[simp] theorem State.traced_fsm (s : State) (e : TraceEntry) : (s.traced e).fsm = s.fsm := rfl
@[simp] theorem State.traced_sub (s : State) (e : TraceEntry) : (s.traced e).sub = s.sub := rfl
@[simp] theorem State.traced_step (s : State) (e : TraceEntry) : (s.traced e).step = s.step := rfl
@[simp] theorem State.traced_busy (s : State) (e : TraceEntry) : (s.traced e).busy = s.busy := rfl
@[simp] theorem State.traced_done (s : State) (e : TraceEntry) : (s.traced e).done = s.done := rfl
@[simp] theorem State.traced_error (s : State) (e : TraceEntry) : (s.traced e).error = s.error := rfl
@[simp] theorem State.traced_overrun (s : State) (e : TraceEntry) : (s.traced e).overrun = s.overrun := rfl
@[simp] theorem State.traced_cmd (s : State) (e : TraceEntry) : (s.traced e).cmd = s.cmd := rfl
@[simp] theorem State.traced_err (s : State) (e : TraceEntry) : (s.traced e).err = s.err := rfl
@[simp] theorem State.traced_errsnap (s : State) (e : TraceEntry) : (s.traced e).errsnap = s.errsnap := rfl
@[simp] theorem State.traced_waitLimit (s : State) (e : TraceEntry) : (s.traced e).waitLimit = s.waitLimit := rfl
@[simp] theorem State.traced_pollcnt (s : State) (e : TraceEntry) : (s.traced e).pollcnt = s.pollcnt := rfl
@[simp] theorem State.traced_oscFreq (s : State) (e : TraceEntry) : (s.traced e).oscFreq = s.oscFreq := rfl
@[simp] theorem State.traced_rstCtrl (s : State) (e : TraceEntry) : (s.traced e).rstCtrl = s.rstCtrl := rfl
@[simp] theorem State.traced_rstDone (s : State) (e : TraceEntry) : (s.traced e).rstDone = s.rstDone := rfl
@[simp] theorem State.traced_osc (s : State) (e : TraceEntry) : (s.traced e).osc = s.osc := rfl
@[simp] theorem State.traced_plls (s : State) (e : TraceEntry) : (s.traced e).plls = s.plls := rfl
@[simp] theorem State.traced_doms (s : State) (e : TraceEntry) : (s.traced e).doms = s.doms := rfl
@[simp] theorem State.traced_fc (s : State) (e : TraceEntry) : (s.traced e).fc = s.fc := rfl
@[simp] theorem State.traced_work (s : State) (e : TraceEntry) : (s.traced e).work = s.work := rfl
@[simp] theorem State.traced_trace (s : State) (e : TraceEntry) : (s.traced e).trace = s.trace ++ [e] := rfl
@[simp] theorem State.traced_schedule (s : State) (e : TraceEntry) : (s.traced e).schedule = s.schedule := rfl
@[simp] theorem State.traced_busReply (s : State) (e : TraceEntry) : (s.traced e).busReply = s.busReply := rfl

/-! ### goto -/

@[simp] theorem State.goto_params (s : State) (k : BitVec 8) : (s.goto k).params = s.params := rfl
@[simp] theorem State.goto_x (s : State) (k : BitVec 8) : (s.goto k).x = s.x := rfl
@[simp] theorem State.goto_fsm (s : State) (k : BitVec 8) : (s.goto k).fsm = s.fsm := rfl
@[simp] theorem State.goto_sub (s : State) (k : BitVec 8) : (s.goto k).sub = s.sub := rfl
@[simp] theorem State.goto_step (s : State) (k : BitVec 8) : (s.goto k).step = k := rfl
@[simp] theorem State.goto_busy (s : State) (k : BitVec 8) : (s.goto k).busy = s.busy := rfl
@[simp] theorem State.goto_done (s : State) (k : BitVec 8) : (s.goto k).done = s.done := rfl
@[simp] theorem State.goto_error (s : State) (k : BitVec 8) : (s.goto k).error = s.error := rfl
@[simp] theorem State.goto_overrun (s : State) (k : BitVec 8) : (s.goto k).overrun = s.overrun := rfl
@[simp] theorem State.goto_cmd (s : State) (k : BitVec 8) : (s.goto k).cmd = s.cmd := rfl
@[simp] theorem State.goto_err (s : State) (k : BitVec 8) : (s.goto k).err = s.err := rfl
@[simp] theorem State.goto_errsnap (s : State) (k : BitVec 8) : (s.goto k).errsnap = s.errsnap := rfl
@[simp] theorem State.goto_waitLimit (s : State) (k : BitVec 8) : (s.goto k).waitLimit = s.waitLimit := rfl
@[simp] theorem State.goto_pollcnt (s : State) (k : BitVec 8) : (s.goto k).pollcnt = s.pollcnt := rfl
@[simp] theorem State.goto_oscFreq (s : State) (k : BitVec 8) : (s.goto k).oscFreq = s.oscFreq := rfl
@[simp] theorem State.goto_rstCtrl (s : State) (k : BitVec 8) : (s.goto k).rstCtrl = s.rstCtrl := rfl
@[simp] theorem State.goto_rstDone (s : State) (k : BitVec 8) : (s.goto k).rstDone = s.rstDone := rfl
@[simp] theorem State.goto_osc (s : State) (k : BitVec 8) : (s.goto k).osc = s.osc := rfl
@[simp] theorem State.goto_plls (s : State) (k : BitVec 8) : (s.goto k).plls = s.plls := rfl
@[simp] theorem State.goto_doms (s : State) (k : BitVec 8) : (s.goto k).doms = s.doms := rfl
@[simp] theorem State.goto_fc (s : State) (k : BitVec 8) : (s.goto k).fc = s.fc := rfl
@[simp] theorem State.goto_work (s : State) (k : BitVec 8) : (s.goto k).work = s.work := rfl
@[simp] theorem State.goto_trace (s : State) (k : BitVec 8) : (s.goto k).trace = s.trace := rfl
@[simp] theorem State.goto_schedule (s : State) (k : BitVec 8) : (s.goto k).schedule = s.schedule := rfl
@[simp] theorem State.goto_busReply (s : State) (k : BitVec 8) : (s.goto k).busReply = s.busReply := rfl

/-! ### keep -/

@[simp] theorem State.keep_params (s : State) (w : Work) : (s.keep w).params = s.params := rfl
@[simp] theorem State.keep_x (s : State) (w : Work) : (s.keep w).x = s.x := rfl
@[simp] theorem State.keep_fsm (s : State) (w : Work) : (s.keep w).fsm = s.fsm := rfl
@[simp] theorem State.keep_sub (s : State) (w : Work) : (s.keep w).sub = s.sub := rfl
@[simp] theorem State.keep_step (s : State) (w : Work) : (s.keep w).step = s.step := rfl
@[simp] theorem State.keep_busy (s : State) (w : Work) : (s.keep w).busy = s.busy := rfl
@[simp] theorem State.keep_done (s : State) (w : Work) : (s.keep w).done = s.done := rfl
@[simp] theorem State.keep_error (s : State) (w : Work) : (s.keep w).error = s.error := rfl
@[simp] theorem State.keep_overrun (s : State) (w : Work) : (s.keep w).overrun = s.overrun := rfl
@[simp] theorem State.keep_cmd (s : State) (w : Work) : (s.keep w).cmd = s.cmd := rfl
@[simp] theorem State.keep_err (s : State) (w : Work) : (s.keep w).err = s.err := rfl
@[simp] theorem State.keep_errsnap (s : State) (w : Work) : (s.keep w).errsnap = s.errsnap := rfl
@[simp] theorem State.keep_waitLimit (s : State) (w : Work) : (s.keep w).waitLimit = s.waitLimit := rfl
@[simp] theorem State.keep_pollcnt (s : State) (w : Work) : (s.keep w).pollcnt = s.pollcnt := rfl
@[simp] theorem State.keep_oscFreq (s : State) (w : Work) : (s.keep w).oscFreq = s.oscFreq := rfl
@[simp] theorem State.keep_rstCtrl (s : State) (w : Work) : (s.keep w).rstCtrl = s.rstCtrl := rfl
@[simp] theorem State.keep_rstDone (s : State) (w : Work) : (s.keep w).rstDone = s.rstDone := rfl
@[simp] theorem State.keep_osc (s : State) (w : Work) : (s.keep w).osc = s.osc := rfl
@[simp] theorem State.keep_plls (s : State) (w : Work) : (s.keep w).plls = s.plls := rfl
@[simp] theorem State.keep_doms (s : State) (w : Work) : (s.keep w).doms = s.doms := rfl
@[simp] theorem State.keep_fc (s : State) (w : Work) : (s.keep w).fc = s.fc := rfl
@[simp] theorem State.keep_work (s : State) (w : Work) : (s.keep w).work = w := rfl
@[simp] theorem State.keep_trace (s : State) (w : Work) : (s.keep w).trace = s.trace := rfl
@[simp] theorem State.keep_schedule (s : State) (w : Work) : (s.keep w).schedule = s.schedule := rfl
@[simp] theorem State.keep_busReply (s : State) (w : Work) : (s.keep w).busReply = s.busReply := rfl

/-! ### setX -/

@[simp] theorem State.setX_params (s : State) (i : Fin 8) (v : Word) : (s.setX i v).params = s.params := rfl
@[simp] theorem State.setX_x (s : State) (i : Fin 8) (v : Word) : (s.setX i v).x = s.x.set i.val v := rfl
@[simp] theorem State.setX_fsm (s : State) (i : Fin 8) (v : Word) : (s.setX i v).fsm = s.fsm := rfl
@[simp] theorem State.setX_sub (s : State) (i : Fin 8) (v : Word) : (s.setX i v).sub = s.sub := rfl
@[simp] theorem State.setX_step (s : State) (i : Fin 8) (v : Word) : (s.setX i v).step = s.step := rfl
@[simp] theorem State.setX_busy (s : State) (i : Fin 8) (v : Word) : (s.setX i v).busy = s.busy := rfl
@[simp] theorem State.setX_done (s : State) (i : Fin 8) (v : Word) : (s.setX i v).done = s.done := rfl
@[simp] theorem State.setX_error (s : State) (i : Fin 8) (v : Word) : (s.setX i v).error = s.error := rfl
@[simp] theorem State.setX_overrun (s : State) (i : Fin 8) (v : Word) : (s.setX i v).overrun = s.overrun := rfl
@[simp] theorem State.setX_cmd (s : State) (i : Fin 8) (v : Word) : (s.setX i v).cmd = s.cmd := rfl
@[simp] theorem State.setX_err (s : State) (i : Fin 8) (v : Word) : (s.setX i v).err = s.err := rfl
@[simp] theorem State.setX_errsnap (s : State) (i : Fin 8) (v : Word) : (s.setX i v).errsnap = s.errsnap := rfl
@[simp] theorem State.setX_waitLimit (s : State) (i : Fin 8) (v : Word) : (s.setX i v).waitLimit = s.waitLimit := rfl
@[simp] theorem State.setX_pollcnt (s : State) (i : Fin 8) (v : Word) : (s.setX i v).pollcnt = s.pollcnt := rfl
@[simp] theorem State.setX_oscFreq (s : State) (i : Fin 8) (v : Word) : (s.setX i v).oscFreq = s.oscFreq := rfl
@[simp] theorem State.setX_rstCtrl (s : State) (i : Fin 8) (v : Word) : (s.setX i v).rstCtrl = s.rstCtrl := rfl
@[simp] theorem State.setX_rstDone (s : State) (i : Fin 8) (v : Word) : (s.setX i v).rstDone = s.rstDone := rfl
@[simp] theorem State.setX_osc (s : State) (i : Fin 8) (v : Word) : (s.setX i v).osc = s.osc := rfl
@[simp] theorem State.setX_plls (s : State) (i : Fin 8) (v : Word) : (s.setX i v).plls = s.plls := rfl
@[simp] theorem State.setX_doms (s : State) (i : Fin 8) (v : Word) : (s.setX i v).doms = s.doms := rfl
@[simp] theorem State.setX_fc (s : State) (i : Fin 8) (v : Word) : (s.setX i v).fc = s.fc := rfl
@[simp] theorem State.setX_work (s : State) (i : Fin 8) (v : Word) : (s.setX i v).work = s.work := rfl
@[simp] theorem State.setX_trace (s : State) (i : Fin 8) (v : Word) : (s.setX i v).trace = s.trace := rfl
@[simp] theorem State.setX_schedule (s : State) (i : Fin 8) (v : Word) : (s.setX i v).schedule = s.schedule := rfl
@[simp] theorem State.setX_busReply (s : State) (i : Fin 8) (v : Word) : (s.setX i v).busReply = s.busReply := rfl

/-! ### endCommand -/

@[simp] theorem State.endCommand_params (s : State) : (s.endCommand).params = s.params := rfl
@[simp] theorem State.endCommand_x (s : State) : (s.endCommand).x = s.x := rfl
@[simp] theorem State.endCommand_fsm (s : State) : (s.endCommand).fsm = s.fsm := rfl
@[simp] theorem State.endCommand_sub (s : State) : (s.endCommand).sub = 0#8 := rfl
@[simp] theorem State.endCommand_step (s : State) : (s.endCommand).step = 0#8 := rfl
@[simp] theorem State.endCommand_busy (s : State) : (s.endCommand).busy = false := rfl
@[simp] theorem State.endCommand_done (s : State) : (s.endCommand).done = s.done := rfl
@[simp] theorem State.endCommand_error (s : State) : (s.endCommand).error = s.error := rfl
@[simp] theorem State.endCommand_overrun (s : State) : (s.endCommand).overrun = s.overrun := rfl
@[simp] theorem State.endCommand_cmd (s : State) : (s.endCommand).cmd = s.cmd := rfl
@[simp] theorem State.endCommand_err (s : State) : (s.endCommand).err = s.err := rfl
@[simp] theorem State.endCommand_errsnap (s : State) : (s.endCommand).errsnap = s.errsnap := rfl
@[simp] theorem State.endCommand_waitLimit (s : State) : (s.endCommand).waitLimit = s.waitLimit := rfl
@[simp] theorem State.endCommand_pollcnt (s : State) : (s.endCommand).pollcnt = 0#32 := rfl
@[simp] theorem State.endCommand_oscFreq (s : State) : (s.endCommand).oscFreq = s.oscFreq := rfl
@[simp] theorem State.endCommand_rstCtrl (s : State) : (s.endCommand).rstCtrl = s.rstCtrl := rfl
@[simp] theorem State.endCommand_rstDone (s : State) : (s.endCommand).rstDone = s.rstDone := rfl
@[simp] theorem State.endCommand_osc (s : State) : (s.endCommand).osc = s.osc := rfl
@[simp] theorem State.endCommand_plls (s : State) : (s.endCommand).plls = s.plls := rfl
@[simp] theorem State.endCommand_doms (s : State) : (s.endCommand).doms = s.doms := rfl
@[simp] theorem State.endCommand_fc (s : State) : (s.endCommand).fc = s.fc := rfl
@[simp] theorem State.endCommand_work (s : State) : (s.endCommand).work = .idle := rfl
@[simp] theorem State.endCommand_trace (s : State) : (s.endCommand).trace = s.trace := rfl
@[simp] theorem State.endCommand_schedule (s : State) : (s.endCommand).schedule = s.schedule := rfl
@[simp] theorem State.endCommand_busReply (s : State) : (s.endCommand).busReply = s.busReply := rfl

/-! ### complete -/

@[simp] theorem State.complete_params (s : State) : (s.complete).params = s.params := rfl
@[simp] theorem State.complete_x (s : State) : (s.complete).x = s.x := rfl
@[simp] theorem State.complete_fsm (s : State) : (s.complete).fsm = s.fsm := rfl
@[simp] theorem State.complete_sub (s : State) : (s.complete).sub = 0#8 := rfl
@[simp] theorem State.complete_step (s : State) : (s.complete).step = 0#8 := rfl
@[simp] theorem State.complete_busy (s : State) : (s.complete).busy = false := rfl
@[simp] theorem State.complete_done (s : State) : (s.complete).done = true := rfl
@[simp] theorem State.complete_error (s : State) : (s.complete).error = s.error := rfl
@[simp] theorem State.complete_overrun (s : State) : (s.complete).overrun = s.overrun := rfl
@[simp] theorem State.complete_cmd (s : State) : (s.complete).cmd = s.cmd := rfl
@[simp] theorem State.complete_err (s : State) : (s.complete).err = s.err := rfl
@[simp] theorem State.complete_errsnap (s : State) : (s.complete).errsnap = s.errsnap := rfl
@[simp] theorem State.complete_waitLimit (s : State) : (s.complete).waitLimit = s.waitLimit := rfl
@[simp] theorem State.complete_pollcnt (s : State) : (s.complete).pollcnt = 0#32 := rfl
@[simp] theorem State.complete_oscFreq (s : State) : (s.complete).oscFreq = s.oscFreq := rfl
@[simp] theorem State.complete_rstCtrl (s : State) : (s.complete).rstCtrl = s.rstCtrl := rfl
@[simp] theorem State.complete_rstDone (s : State) : (s.complete).rstDone = s.rstDone := rfl
@[simp] theorem State.complete_osc (s : State) : (s.complete).osc = s.osc := rfl
@[simp] theorem State.complete_plls (s : State) : (s.complete).plls = s.plls := rfl
@[simp] theorem State.complete_doms (s : State) : (s.complete).doms = s.doms := rfl
@[simp] theorem State.complete_fc (s : State) : (s.complete).fc = s.fc := rfl
@[simp] theorem State.complete_work (s : State) : (s.complete).work = .idle := rfl
@[simp] theorem State.complete_trace (s : State) : (s.complete).trace = s.trace := rfl
@[simp] theorem State.complete_schedule (s : State) : (s.complete).schedule = s.schedule := rfl
@[simp] theorem State.complete_busReply (s : State) : (s.complete).busReply = s.busReply := rfl

/-! ### reject -/

@[simp] theorem State.reject_params (s : State) (r : Rejection) (o : BitVec 8) (u : BitVec 4) : (s.reject r o u).params = s.params := rfl
@[simp] theorem State.reject_x (s : State) (r : Rejection) (o : BitVec 8) (u : BitVec 4) : (s.reject r o u).x = s.x := rfl
@[simp] theorem State.reject_fsm (s : State) (r : Rejection) (o : BitVec 8) (u : BitVec 4) : (s.reject r o u).fsm = s.fsm := rfl
@[simp] theorem State.reject_sub (s : State) (r : Rejection) (o : BitVec 8) (u : BitVec 4) : (s.reject r o u).sub = 0#8 := rfl
@[simp] theorem State.reject_step (s : State) (r : Rejection) (o : BitVec 8) (u : BitVec 4) : (s.reject r o u).step = 0#8 := rfl
@[simp] theorem State.reject_busy (s : State) (r : Rejection) (o : BitVec 8) (u : BitVec 4) : (s.reject r o u).busy = false := rfl
@[simp] theorem State.reject_done (s : State) (r : Rejection) (o : BitVec 8) (u : BitVec 4) : (s.reject r o u).done = s.done := rfl
@[simp] theorem State.reject_error (s : State) (r : Rejection) (o : BitVec 8) (u : BitVec 4) : (s.reject r o u).error = true := rfl
@[simp] theorem State.reject_overrun (s : State) (r : Rejection) (o : BitVec 8) (u : BitVec 4) : (s.reject r o u).overrun = s.overrun := rfl
@[simp] theorem State.reject_cmd (s : State) (r : Rejection) (o : BitVec 8) (u : BitVec 4) : (s.reject r o u).cmd = s.cmd := rfl
@[simp] theorem State.reject_err (s : State) (r : Rejection) (o : BitVec 8) (u : BitVec 4) : (s.reject r o u).err = ⟨0#4, r.cause, o, u⟩ := rfl
@[simp] theorem State.reject_errsnap (s : State) (r : Rejection) (o : BitVec 8) (u : BitVec 4) : (s.reject r o u).errsnap = r.snap := rfl
@[simp] theorem State.reject_waitLimit (s : State) (r : Rejection) (o : BitVec 8) (u : BitVec 4) : (s.reject r o u).waitLimit = s.waitLimit := rfl
@[simp] theorem State.reject_pollcnt (s : State) (r : Rejection) (o : BitVec 8) (u : BitVec 4) : (s.reject r o u).pollcnt = 0#32 := rfl
@[simp] theorem State.reject_oscFreq (s : State) (r : Rejection) (o : BitVec 8) (u : BitVec 4) : (s.reject r o u).oscFreq = s.oscFreq := rfl
@[simp] theorem State.reject_rstCtrl (s : State) (r : Rejection) (o : BitVec 8) (u : BitVec 4) : (s.reject r o u).rstCtrl = s.rstCtrl := rfl
@[simp] theorem State.reject_rstDone (s : State) (r : Rejection) (o : BitVec 8) (u : BitVec 4) : (s.reject r o u).rstDone = s.rstDone := rfl
@[simp] theorem State.reject_osc (s : State) (r : Rejection) (o : BitVec 8) (u : BitVec 4) : (s.reject r o u).osc = s.osc := rfl
@[simp] theorem State.reject_plls (s : State) (r : Rejection) (o : BitVec 8) (u : BitVec 4) : (s.reject r o u).plls = s.plls := rfl
@[simp] theorem State.reject_doms (s : State) (r : Rejection) (o : BitVec 8) (u : BitVec 4) : (s.reject r o u).doms = s.doms := rfl
@[simp] theorem State.reject_fc (s : State) (r : Rejection) (o : BitVec 8) (u : BitVec 4) : (s.reject r o u).fc = s.fc := rfl
@[simp] theorem State.reject_work (s : State) (r : Rejection) (o : BitVec 8) (u : BitVec 4) : (s.reject r o u).work = .idle := rfl
@[simp] theorem State.reject_trace (s : State) (r : Rejection) (o : BitVec 8) (u : BitVec 4) : (s.reject r o u).trace = s.trace := rfl
@[simp] theorem State.reject_schedule (s : State) (r : Rejection) (o : BitVec 8) (u : BitVec 4) : (s.reject r o u).schedule = s.schedule := rfl
@[simp] theorem State.reject_busReply (s : State) (r : Rejection) (o : BitVec 8) (u : BitVec 4) : (s.reject r o u).busReply = s.busReply := rfl

/-! ### fatal -/

@[simp] theorem State.fatal_params (s : State) (r : Rejection) (g : BitVec 4) (o : BitVec 8) (u : BitVec 4) : (s.fatal r g o u).params = s.params := rfl
@[simp] theorem State.fatal_x (s : State) (r : Rejection) (g : BitVec 4) (o : BitVec 8) (u : BitVec 4) : (s.fatal r g o u).x = s.x := rfl
@[simp] theorem State.fatal_fsm (s : State) (r : Rejection) (g : BitVec 4) (o : BitVec 8) (u : BitVec 4) : (s.fatal r g o u).fsm = .failed := rfl
@[simp] theorem State.fatal_sub (s : State) (r : Rejection) (g : BitVec 4) (o : BitVec 8) (u : BitVec 4) : (s.fatal r g o u).sub = 0#8 := rfl
@[simp] theorem State.fatal_step (s : State) (r : Rejection) (g : BitVec 4) (o : BitVec 8) (u : BitVec 4) : (s.fatal r g o u).step = 0#8 := rfl
@[simp] theorem State.fatal_busy (s : State) (r : Rejection) (g : BitVec 4) (o : BitVec 8) (u : BitVec 4) : (s.fatal r g o u).busy = false := rfl
@[simp] theorem State.fatal_done (s : State) (r : Rejection) (g : BitVec 4) (o : BitVec 8) (u : BitVec 4) : (s.fatal r g o u).done = s.done := rfl
@[simp] theorem State.fatal_error (s : State) (r : Rejection) (g : BitVec 4) (o : BitVec 8) (u : BitVec 4) : (s.fatal r g o u).error = true := rfl
@[simp] theorem State.fatal_overrun (s : State) (r : Rejection) (g : BitVec 4) (o : BitVec 8) (u : BitVec 4) : (s.fatal r g o u).overrun = s.overrun := rfl
@[simp] theorem State.fatal_cmd (s : State) (r : Rejection) (g : BitVec 4) (o : BitVec 8) (u : BitVec 4) : (s.fatal r g o u).cmd = s.cmd := rfl
@[simp] theorem State.fatal_err (s : State) (r : Rejection) (g : BitVec 4) (o : BitVec 8) (u : BitVec 4) : (s.fatal r g o u).err = ⟨g, r.cause, o, u⟩ := rfl
@[simp] theorem State.fatal_errsnap (s : State) (r : Rejection) (g : BitVec 4) (o : BitVec 8) (u : BitVec 4) : (s.fatal r g o u).errsnap = r.snap := rfl
@[simp] theorem State.fatal_waitLimit (s : State) (r : Rejection) (g : BitVec 4) (o : BitVec 8) (u : BitVec 4) : (s.fatal r g o u).waitLimit = s.waitLimit := rfl
@[simp] theorem State.fatal_pollcnt (s : State) (r : Rejection) (g : BitVec 4) (o : BitVec 8) (u : BitVec 4) : (s.fatal r g o u).pollcnt = 0#32 := rfl
@[simp] theorem State.fatal_oscFreq (s : State) (r : Rejection) (g : BitVec 4) (o : BitVec 8) (u : BitVec 4) : (s.fatal r g o u).oscFreq = s.oscFreq := rfl
@[simp] theorem State.fatal_rstCtrl (s : State) (r : Rejection) (g : BitVec 4) (o : BitVec 8) (u : BitVec 4) : (s.fatal r g o u).rstCtrl = s.rstCtrl := rfl
@[simp] theorem State.fatal_rstDone (s : State) (r : Rejection) (g : BitVec 4) (o : BitVec 8) (u : BitVec 4) : (s.fatal r g o u).rstDone = s.rstDone := rfl
@[simp] theorem State.fatal_osc (s : State) (r : Rejection) (g : BitVec 4) (o : BitVec 8) (u : BitVec 4) : (s.fatal r g o u).osc = s.osc := rfl
@[simp] theorem State.fatal_plls (s : State) (r : Rejection) (g : BitVec 4) (o : BitVec 8) (u : BitVec 4) : (s.fatal r g o u).plls = s.plls := rfl
@[simp] theorem State.fatal_doms (s : State) (r : Rejection) (g : BitVec 4) (o : BitVec 8) (u : BitVec 4) : (s.fatal r g o u).doms = s.doms := rfl
@[simp] theorem State.fatal_fc (s : State) (r : Rejection) (g : BitVec 4) (o : BitVec 8) (u : BitVec 4) : (s.fatal r g o u).fc = s.fc := rfl
@[simp] theorem State.fatal_work (s : State) (r : Rejection) (g : BitVec 4) (o : BitVec 8) (u : BitVec 4) : (s.fatal r g o u).work = .idle := rfl
@[simp] theorem State.fatal_trace (s : State) (r : Rejection) (g : BitVec 4) (o : BitVec 8) (u : BitVec 4) : (s.fatal r g o u).trace = s.trace := rfl
@[simp] theorem State.fatal_schedule (s : State) (r : Rejection) (g : BitVec 4) (o : BitVec 8) (u : BitVec 4) : (s.fatal r g o u).schedule = s.schedule := rfl
@[simp] theorem State.fatal_busReply (s : State) (r : Rejection) (g : BitVec 4) (o : BitVec 8) (u : BitVec 4) : (s.fatal r g o u).busReply = s.busReply := rfl

/-! ### issue -/

@[simp] theorem State.issue_params (s : State) (w : Word) : (s.issue w).params = s.params := rfl
@[simp] theorem State.issue_x (s : State) (w : Word) : (s.issue w).x = s.x := rfl
@[simp] theorem State.issue_fsm (s : State) (w : Word) : (s.issue w).fsm = s.fsm := rfl
@[simp] theorem State.issue_sub (s : State) (w : Word) : (s.issue w).sub = 0#8 := rfl
@[simp] theorem State.issue_step (s : State) (w : Word) : (s.issue w).step = 0#8 := rfl
@[simp] theorem State.issue_busy (s : State) (w : Word) : (s.issue w).busy = true := rfl
@[simp] theorem State.issue_done (s : State) (w : Word) : (s.issue w).done = false := rfl
@[simp] theorem State.issue_error (s : State) (w : Word) : (s.issue w).error = false := rfl
@[simp] theorem State.issue_overrun (s : State) (w : Word) : (s.issue w).overrun = s.overrun := rfl
@[simp] theorem State.issue_cmd (s : State) (w : Word) : (s.issue w).cmd = w := rfl
@[simp] theorem State.issue_err (s : State) (w : Word) : (s.issue w).err = ErrReport.cleared := rfl
@[simp] theorem State.issue_errsnap (s : State) (w : Word) : (s.issue w).errsnap = 0#32 := rfl
@[simp] theorem State.issue_waitLimit (s : State) (w : Word) : (s.issue w).waitLimit = s.waitLimit := rfl
@[simp] theorem State.issue_pollcnt (s : State) (w : Word) : (s.issue w).pollcnt = 0#32 := rfl
@[simp] theorem State.issue_oscFreq (s : State) (w : Word) : (s.issue w).oscFreq = s.oscFreq := rfl
@[simp] theorem State.issue_rstCtrl (s : State) (w : Word) : (s.issue w).rstCtrl = s.rstCtrl := rfl
@[simp] theorem State.issue_rstDone (s : State) (w : Word) : (s.issue w).rstDone = s.rstDone := rfl
@[simp] theorem State.issue_osc (s : State) (w : Word) : (s.issue w).osc = s.osc := rfl
@[simp] theorem State.issue_plls (s : State) (w : Word) : (s.issue w).plls = s.plls := rfl
@[simp] theorem State.issue_doms (s : State) (w : Word) : (s.issue w).doms = s.doms := rfl
@[simp] theorem State.issue_fc (s : State) (w : Word) : (s.issue w).fc = s.fc := rfl
@[simp] theorem State.issue_work (s : State) (w : Word) : (s.issue w).work = .idle := rfl
@[simp] theorem State.issue_trace (s : State) (w : Word) : (s.issue w).trace = s.trace := rfl
@[simp] theorem State.issue_schedule (s : State) (w : Word) : (s.issue w).schedule = s.schedule := rfl
@[simp] theorem State.issue_busReply (s : State) (w : Word) : (s.issue w).busReply = s.busReply := rfl

/-! ### bringupEnd -/

@[simp] theorem State.bringupEnd_params (s : State) : (s.bringupEnd).params = s.params := rfl
@[simp] theorem State.bringupEnd_x (s : State) : (s.bringupEnd).x = s.x := rfl
@[simp] theorem State.bringupEnd_fsm (s : State) : (s.bringupEnd).fsm = .ready := rfl
@[simp] theorem State.bringupEnd_sub (s : State) : (s.bringupEnd).sub = 0#8 := rfl
@[simp] theorem State.bringupEnd_step (s : State) : (s.bringupEnd).step = 0#8 := rfl
@[simp] theorem State.bringupEnd_busy (s : State) : (s.bringupEnd).busy = false := rfl
@[simp] theorem State.bringupEnd_done (s : State) : (s.bringupEnd).done = true := rfl
@[simp] theorem State.bringupEnd_error (s : State) : (s.bringupEnd).error = s.error := rfl
@[simp] theorem State.bringupEnd_overrun (s : State) : (s.bringupEnd).overrun = s.overrun := rfl
@[simp] theorem State.bringupEnd_cmd (s : State) : (s.bringupEnd).cmd = s.cmd := rfl
@[simp] theorem State.bringupEnd_err (s : State) : (s.bringupEnd).err = s.err := rfl
@[simp] theorem State.bringupEnd_errsnap (s : State) : (s.bringupEnd).errsnap = s.errsnap := rfl
@[simp] theorem State.bringupEnd_waitLimit (s : State) : (s.bringupEnd).waitLimit = s.waitLimit := rfl
@[simp] theorem State.bringupEnd_pollcnt (s : State) : (s.bringupEnd).pollcnt = 0#32 := rfl
@[simp] theorem State.bringupEnd_oscFreq (s : State) : (s.bringupEnd).oscFreq = s.oscFreq := rfl
@[simp] theorem State.bringupEnd_rstCtrl (s : State) : (s.bringupEnd).rstCtrl = s.rstCtrl := rfl
@[simp] theorem State.bringupEnd_rstDone (s : State) : (s.bringupEnd).rstDone = s.rstDone := rfl
@[simp] theorem State.bringupEnd_osc (s : State) : (s.bringupEnd).osc = s.osc := rfl
@[simp] theorem State.bringupEnd_plls (s : State) : (s.bringupEnd).plls = s.plls := rfl
@[simp] theorem State.bringupEnd_doms (s : State) : (s.bringupEnd).doms = s.doms := rfl
@[simp] theorem State.bringupEnd_fc (s : State) : (s.bringupEnd).fc = s.fc := rfl
@[simp] theorem State.bringupEnd_work (s : State) : (s.bringupEnd).work = .idle := rfl
@[simp] theorem State.bringupEnd_trace (s : State) : (s.bringupEnd).trace = s.trace := rfl
@[simp] theorem State.bringupEnd_schedule (s : State) : (s.bringupEnd).schedule = s.schedule := rfl
@[simp] theorem State.bringupEnd_busReply (s : State) : (s.bringupEnd).busReply = s.busReply := rfl

/-! ### waited -/

@[simp] theorem State.waited_params (s : State) (w : WaitId) (r : Reg) (k : BitVec 8) : (s.waited w r k).params = s.params := rfl
@[simp] theorem State.waited_x (s : State) (w : WaitId) (r : Reg) (k : BitVec 8) : (s.waited w r k).x = s.x := rfl
@[simp] theorem State.waited_fsm (s : State) (w : WaitId) (r : Reg) (k : BitVec 8) : (s.waited w r k).fsm = s.fsm := rfl
@[simp] theorem State.waited_sub (s : State) (w : WaitId) (r : Reg) (k : BitVec 8) : (s.waited w r k).sub = s.sub := rfl
@[simp] theorem State.waited_step (s : State) (w : WaitId) (r : Reg) (k : BitVec 8) : (s.waited w r k).step = k := rfl
@[simp] theorem State.waited_busy (s : State) (w : WaitId) (r : Reg) (k : BitVec 8) : (s.waited w r k).busy = s.busy := rfl
@[simp] theorem State.waited_done (s : State) (w : WaitId) (r : Reg) (k : BitVec 8) : (s.waited w r k).done = s.done := rfl
@[simp] theorem State.waited_error (s : State) (w : WaitId) (r : Reg) (k : BitVec 8) : (s.waited w r k).error = s.error := rfl
@[simp] theorem State.waited_overrun (s : State) (w : WaitId) (r : Reg) (k : BitVec 8) : (s.waited w r k).overrun = s.overrun := rfl
@[simp] theorem State.waited_cmd (s : State) (w : WaitId) (r : Reg) (k : BitVec 8) : (s.waited w r k).cmd = s.cmd := rfl
@[simp] theorem State.waited_err (s : State) (w : WaitId) (r : Reg) (k : BitVec 8) : (s.waited w r k).err = s.err := rfl
@[simp] theorem State.waited_errsnap (s : State) (w : WaitId) (r : Reg) (k : BitVec 8) : (s.waited w r k).errsnap = s.errsnap := rfl
@[simp] theorem State.waited_waitLimit (s : State) (w : WaitId) (r : Reg) (k : BitVec 8) : (s.waited w r k).waitLimit = s.waitLimit := rfl
@[simp] theorem State.waited_pollcnt (s : State) (w : WaitId) (r : Reg) (k : BitVec 8) : (s.waited w r k).pollcnt = 0#32 := rfl
@[simp] theorem State.waited_oscFreq (s : State) (w : WaitId) (r : Reg) (k : BitVec 8) : (s.waited w r k).oscFreq = s.oscFreq := rfl
@[simp] theorem State.waited_rstCtrl (s : State) (w : WaitId) (r : Reg) (k : BitVec 8) : (s.waited w r k).rstCtrl = s.rstCtrl := rfl
@[simp] theorem State.waited_rstDone (s : State) (w : WaitId) (r : Reg) (k : BitVec 8) : (s.waited w r k).rstDone = s.rstDone := rfl
@[simp] theorem State.waited_osc (s : State) (w : WaitId) (r : Reg) (k : BitVec 8) : (s.waited w r k).osc = s.osc := rfl
@[simp] theorem State.waited_plls (s : State) (w : WaitId) (r : Reg) (k : BitVec 8) : (s.waited w r k).plls = s.plls := rfl
@[simp] theorem State.waited_doms (s : State) (w : WaitId) (r : Reg) (k : BitVec 8) : (s.waited w r k).doms = s.doms := rfl
@[simp] theorem State.waited_fc (s : State) (w : WaitId) (r : Reg) (k : BitVec 8) : (s.waited w r k).fc = s.fc := rfl
@[simp] theorem State.waited_work (s : State) (w : WaitId) (r : Reg) (k : BitVec 8) : (s.waited w r k).work = s.work := rfl
@[simp] theorem State.waited_trace (s : State) (w : WaitId) (r : Reg) (k : BitVec 8) : (s.waited w r k).trace = s.trace ++ [.wait w r (s.regRead r)] := rfl
@[simp] theorem State.waited_schedule (s : State) (w : WaitId) (r : Reg) (k : BitVec 8) : (s.waited w r k).schedule = s.schedule := rfl
@[simp] theorem State.waited_busReply (s : State) (w : WaitId) (r : Reg) (k : BitVec 8) : (s.waited w r k).busReply = s.busReply := rfl

/-! ### polled -/

@[simp] theorem State.polled_params (s : State) : (s.polled).params = s.params := rfl
@[simp] theorem State.polled_x (s : State) : (s.polled).x = s.x := rfl
@[simp] theorem State.polled_fsm (s : State) : (s.polled).fsm = s.fsm := rfl
@[simp] theorem State.polled_sub (s : State) : (s.polled).sub = s.sub := rfl
@[simp] theorem State.polled_step (s : State) : (s.polled).step = s.step := rfl
@[simp] theorem State.polled_busy (s : State) : (s.polled).busy = s.busy := rfl
@[simp] theorem State.polled_done (s : State) : (s.polled).done = s.done := rfl
@[simp] theorem State.polled_error (s : State) : (s.polled).error = s.error := rfl
@[simp] theorem State.polled_overrun (s : State) : (s.polled).overrun = s.overrun := rfl
@[simp] theorem State.polled_cmd (s : State) : (s.polled).cmd = s.cmd := rfl
@[simp] theorem State.polled_err (s : State) : (s.polled).err = s.err := rfl
@[simp] theorem State.polled_errsnap (s : State) : (s.polled).errsnap = s.errsnap := rfl
@[simp] theorem State.polled_waitLimit (s : State) : (s.polled).waitLimit = s.waitLimit := rfl
@[simp] theorem State.polled_pollcnt (s : State) : (s.polled).pollcnt = nextPoll s.pollcnt := rfl
@[simp] theorem State.polled_oscFreq (s : State) : (s.polled).oscFreq = s.oscFreq := rfl
@[simp] theorem State.polled_rstCtrl (s : State) : (s.polled).rstCtrl = s.rstCtrl := rfl
@[simp] theorem State.polled_rstDone (s : State) : (s.polled).rstDone = s.rstDone := rfl
@[simp] theorem State.polled_osc (s : State) : (s.polled).osc = s.osc := rfl
@[simp] theorem State.polled_plls (s : State) : (s.polled).plls = s.plls := rfl
@[simp] theorem State.polled_doms (s : State) : (s.polled).doms = s.doms := rfl
@[simp] theorem State.polled_fc (s : State) : (s.polled).fc = s.fc := rfl
@[simp] theorem State.polled_work (s : State) : (s.polled).work = s.work := rfl
@[simp] theorem State.polled_trace (s : State) : (s.polled).trace = s.trace := rfl
@[simp] theorem State.polled_schedule (s : State) : (s.polled).schedule = s.schedule := rfl
@[simp] theorem State.polled_busReply (s : State) : (s.polled).busReply = s.busReply := rfl

/-! ### latchOscFreq -/

@[simp] theorem State.latchOscFreq_params (s : State) (w : Config.OscFreqLatch) (f : Word) : (s.latchOscFreq w f).params = s.params := rfl
@[simp] theorem State.latchOscFreq_x (s : State) (w : Config.OscFreqLatch) (f : Word) : (s.latchOscFreq w f).x = s.x := rfl
@[simp] theorem State.latchOscFreq_fsm (s : State) (w : Config.OscFreqLatch) (f : Word) : (s.latchOscFreq w f).fsm = s.fsm := rfl
@[simp] theorem State.latchOscFreq_sub (s : State) (w : Config.OscFreqLatch) (f : Word) : (s.latchOscFreq w f).sub = s.sub := rfl
@[simp] theorem State.latchOscFreq_step (s : State) (w : Config.OscFreqLatch) (f : Word) : (s.latchOscFreq w f).step = s.step := rfl
@[simp] theorem State.latchOscFreq_busy (s : State) (w : Config.OscFreqLatch) (f : Word) : (s.latchOscFreq w f).busy = s.busy := rfl
@[simp] theorem State.latchOscFreq_done (s : State) (w : Config.OscFreqLatch) (f : Word) : (s.latchOscFreq w f).done = s.done := rfl
@[simp] theorem State.latchOscFreq_error (s : State) (w : Config.OscFreqLatch) (f : Word) : (s.latchOscFreq w f).error = s.error := rfl
@[simp] theorem State.latchOscFreq_overrun (s : State) (w : Config.OscFreqLatch) (f : Word) : (s.latchOscFreq w f).overrun = s.overrun := rfl
@[simp] theorem State.latchOscFreq_cmd (s : State) (w : Config.OscFreqLatch) (f : Word) : (s.latchOscFreq w f).cmd = s.cmd := rfl
@[simp] theorem State.latchOscFreq_err (s : State) (w : Config.OscFreqLatch) (f : Word) : (s.latchOscFreq w f).err = s.err := rfl
@[simp] theorem State.latchOscFreq_errsnap (s : State) (w : Config.OscFreqLatch) (f : Word) : (s.latchOscFreq w f).errsnap = s.errsnap := rfl
@[simp] theorem State.latchOscFreq_waitLimit (s : State) (w : Config.OscFreqLatch) (f : Word) : (s.latchOscFreq w f).waitLimit = s.waitLimit := rfl
@[simp] theorem State.latchOscFreq_pollcnt (s : State) (w : Config.OscFreqLatch) (f : Word) : (s.latchOscFreq w f).pollcnt = s.pollcnt := rfl
@[simp] theorem State.latchOscFreq_oscFreq (s : State) (w : Config.OscFreqLatch) (f : Word) : (s.latchOscFreq w f).oscFreq = if s.params.oscFreqLatch = w then f else s.oscFreq := rfl
@[simp] theorem State.latchOscFreq_rstCtrl (s : State) (w : Config.OscFreqLatch) (f : Word) : (s.latchOscFreq w f).rstCtrl = s.rstCtrl := rfl
@[simp] theorem State.latchOscFreq_rstDone (s : State) (w : Config.OscFreqLatch) (f : Word) : (s.latchOscFreq w f).rstDone = s.rstDone := rfl
@[simp] theorem State.latchOscFreq_osc (s : State) (w : Config.OscFreqLatch) (f : Word) : (s.latchOscFreq w f).osc = s.osc := rfl
@[simp] theorem State.latchOscFreq_plls (s : State) (w : Config.OscFreqLatch) (f : Word) : (s.latchOscFreq w f).plls = s.plls := rfl
@[simp] theorem State.latchOscFreq_doms (s : State) (w : Config.OscFreqLatch) (f : Word) : (s.latchOscFreq w f).doms = s.doms := rfl
@[simp] theorem State.latchOscFreq_fc (s : State) (w : Config.OscFreqLatch) (f : Word) : (s.latchOscFreq w f).fc = s.fc := rfl
@[simp] theorem State.latchOscFreq_work (s : State) (w : Config.OscFreqLatch) (f : Word) : (s.latchOscFreq w f).work = s.work := rfl
@[simp] theorem State.latchOscFreq_trace (s : State) (w : Config.OscFreqLatch) (f : Word) : (s.latchOscFreq w f).trace = s.trace := rfl
@[simp] theorem State.latchOscFreq_schedule (s : State) (w : Config.OscFreqLatch) (f : Word) : (s.latchOscFreq w f).schedule = s.schedule := rfl
@[simp] theorem State.latchOscFreq_busReply (s : State) (w : Config.OscFreqLatch) (f : Word) : (s.latchOscFreq w f).busReply = s.busReply := rfl

/-! ### describePll -/

@[simp] theorem State.describePll_params (s : State) (p : PllId) (v o : Word) : (s.describePll p v o).params = s.params := rfl
@[simp] theorem State.describePll_x (s : State) (p : PllId) (v o : Word) : (s.describePll p v o).x = s.x := rfl
@[simp] theorem State.describePll_fsm (s : State) (p : PllId) (v o : Word) : (s.describePll p v o).fsm = s.fsm := rfl
@[simp] theorem State.describePll_sub (s : State) (p : PllId) (v o : Word) : (s.describePll p v o).sub = s.sub := rfl
@[simp] theorem State.describePll_step (s : State) (p : PllId) (v o : Word) : (s.describePll p v o).step = s.step := rfl
@[simp] theorem State.describePll_busy (s : State) (p : PllId) (v o : Word) : (s.describePll p v o).busy = s.busy := rfl
@[simp] theorem State.describePll_done (s : State) (p : PllId) (v o : Word) : (s.describePll p v o).done = s.done := rfl
@[simp] theorem State.describePll_error (s : State) (p : PllId) (v o : Word) : (s.describePll p v o).error = s.error := rfl
@[simp] theorem State.describePll_overrun (s : State) (p : PllId) (v o : Word) : (s.describePll p v o).overrun = s.overrun := rfl
@[simp] theorem State.describePll_cmd (s : State) (p : PllId) (v o : Word) : (s.describePll p v o).cmd = s.cmd := rfl
@[simp] theorem State.describePll_err (s : State) (p : PllId) (v o : Word) : (s.describePll p v o).err = s.err := rfl
@[simp] theorem State.describePll_errsnap (s : State) (p : PllId) (v o : Word) : (s.describePll p v o).errsnap = s.errsnap := rfl
@[simp] theorem State.describePll_waitLimit (s : State) (p : PllId) (v o : Word) : (s.describePll p v o).waitLimit = s.waitLimit := rfl
@[simp] theorem State.describePll_pollcnt (s : State) (p : PllId) (v o : Word) : (s.describePll p v o).pollcnt = s.pollcnt := rfl
@[simp] theorem State.describePll_oscFreq (s : State) (p : PllId) (v o : Word) : (s.describePll p v o).oscFreq = s.oscFreq := rfl
@[simp] theorem State.describePll_rstCtrl (s : State) (p : PllId) (v o : Word) : (s.describePll p v o).rstCtrl = s.rstCtrl := rfl
@[simp] theorem State.describePll_rstDone (s : State) (p : PllId) (v o : Word) : (s.describePll p v o).rstDone = s.rstDone := rfl
@[simp] theorem State.describePll_osc (s : State) (p : PllId) (v o : Word) : (s.describePll p v o).osc = s.osc := rfl
@[simp] theorem State.describePll_plls (s : State) (p : PllId) (v o : Word) : (s.describePll p v o).plls = s.plls.set p { s.pll p with vcoHz := v, outHz := o } := rfl
@[simp] theorem State.describePll_doms (s : State) (p : PllId) (v o : Word) : (s.describePll p v o).doms = s.doms := rfl
@[simp] theorem State.describePll_fc (s : State) (p : PllId) (v o : Word) : (s.describePll p v o).fc = s.fc := rfl
@[simp] theorem State.describePll_work (s : State) (p : PllId) (v o : Word) : (s.describePll p v o).work = s.work := rfl
@[simp] theorem State.describePll_trace (s : State) (p : PllId) (v o : Word) : (s.describePll p v o).trace = s.trace := rfl
@[simp] theorem State.describePll_schedule (s : State) (p : PllId) (v o : Word) : (s.describePll p v o).schedule = s.schedule := rfl
@[simp] theorem State.describePll_busReply (s : State) (p : PllId) (v o : Word) : (s.describePll p v o).busReply = s.busReply := rfl

/-! ### describeDom -/

@[simp] theorem State.describeDom_params (s : State) (d : Dom) (h : Word) : (s.describeDom d h).params = s.params := rfl
@[simp] theorem State.describeDom_x (s : State) (d : Dom) (h : Word) : (s.describeDom d h).x = s.x := rfl
@[simp] theorem State.describeDom_fsm (s : State) (d : Dom) (h : Word) : (s.describeDom d h).fsm = s.fsm := rfl
@[simp] theorem State.describeDom_sub (s : State) (d : Dom) (h : Word) : (s.describeDom d h).sub = s.sub := rfl
@[simp] theorem State.describeDom_step (s : State) (d : Dom) (h : Word) : (s.describeDom d h).step = s.step := rfl
@[simp] theorem State.describeDom_busy (s : State) (d : Dom) (h : Word) : (s.describeDom d h).busy = s.busy := rfl
@[simp] theorem State.describeDom_done (s : State) (d : Dom) (h : Word) : (s.describeDom d h).done = s.done := rfl
@[simp] theorem State.describeDom_error (s : State) (d : Dom) (h : Word) : (s.describeDom d h).error = s.error := rfl
@[simp] theorem State.describeDom_overrun (s : State) (d : Dom) (h : Word) : (s.describeDom d h).overrun = s.overrun := rfl
@[simp] theorem State.describeDom_cmd (s : State) (d : Dom) (h : Word) : (s.describeDom d h).cmd = s.cmd := rfl
@[simp] theorem State.describeDom_err (s : State) (d : Dom) (h : Word) : (s.describeDom d h).err = s.err := rfl
@[simp] theorem State.describeDom_errsnap (s : State) (d : Dom) (h : Word) : (s.describeDom d h).errsnap = s.errsnap := rfl
@[simp] theorem State.describeDom_waitLimit (s : State) (d : Dom) (h : Word) : (s.describeDom d h).waitLimit = s.waitLimit := rfl
@[simp] theorem State.describeDom_pollcnt (s : State) (d : Dom) (h : Word) : (s.describeDom d h).pollcnt = s.pollcnt := rfl
@[simp] theorem State.describeDom_oscFreq (s : State) (d : Dom) (h : Word) : (s.describeDom d h).oscFreq = s.oscFreq := rfl
@[simp] theorem State.describeDom_rstCtrl (s : State) (d : Dom) (h : Word) : (s.describeDom d h).rstCtrl = s.rstCtrl := rfl
@[simp] theorem State.describeDom_rstDone (s : State) (d : Dom) (h : Word) : (s.describeDom d h).rstDone = s.rstDone := rfl
@[simp] theorem State.describeDom_osc (s : State) (d : Dom) (h : Word) : (s.describeDom d h).osc = s.osc := rfl
@[simp] theorem State.describeDom_plls (s : State) (d : Dom) (h : Word) : (s.describeDom d h).plls = s.plls := rfl
@[simp] theorem State.describeDom_doms (s : State) (d : Dom) (h : Word) : (s.describeDom d h).doms = s.doms.set d { s.dom d with hz := h, valid := true } := rfl
@[simp] theorem State.describeDom_fc (s : State) (d : Dom) (h : Word) : (s.describeDom d h).fc = s.fc := rfl
@[simp] theorem State.describeDom_work (s : State) (d : Dom) (h : Word) : (s.describeDom d h).work = s.work := rfl
@[simp] theorem State.describeDom_trace (s : State) (d : Dom) (h : Word) : (s.describeDom d h).trace = s.trace := rfl
@[simp] theorem State.describeDom_schedule (s : State) (d : Dom) (h : Word) : (s.describeDom d h).schedule = s.schedule := rfl
@[simp] theorem State.describeDom_busReply (s : State) (d : Dom) (h : Word) : (s.describeDom d h).busReply = s.busReply := rfl

/-! ### The banks -/

@[simp] theorem Plls.get_set (ps : Plls) (p q : PllId) (v : Pll) :
    (ps.set p v).get q = if q = p then v else ps.get q := by
  cases p <;> cases q <;> rfl

@[simp] theorem Domains.get_set (ds : Domains) (d e : Dom) (v : Domain) :
    (ds.set d v).get e = if e = d then v else ds.get e := by
  cases d <;> cases e <;> rfl

@[simp] theorem State.pll_setPll (s : State) (p q : PllId) (v : Pll) :
    (s.setPll p v).pll q = if q = p then v else s.pll q := Plls.get_set _ _ _ _

@[simp] theorem State.dom_setDom (s : State) (d e : Dom) (v : Domain) :
    (s.setDom d v).dom e = if e = d then v else s.dom e := Domains.get_set _ _ _ _

/-- What holds of every PLL still holds after one is replaced, if it holds of the replacement. -/
theorem State.setPll_forall {P : PllId → Pll → Prop} {s : State} {p : PllId} {v : Pll}
    (h : ∀ q, P q (s.pll q)) (hv : P p v) (q : PllId) : P q ((s.setPll p v).pll q) := by
  rw [State.pll_setPll]
  split
  case isTrue e => exact e ▸ hv
  case isFalse => exact h q

/-- What holds of every domain still holds after one is replaced, if it holds of the replacement. -/
theorem State.setDom_forall {P : Dom → Domain → Prop} {s : State} {d : Dom} {v : Domain}
    (h : ∀ e, P e (s.dom e)) (hv : P d v) (e : Dom) : P e ((s.setDom d v).dom e) := by
  rw [State.dom_setDom]
  split
  case isTrue he => exact he ▸ hv
  case isFalse => exact h e

theorem State.pll_congr {s t : State} (h : t.plls = s.plls) (p : PllId) : t.pll p = s.pll p := by
  simp [State.pll, h]

theorem State.dom_congr {s t : State} (h : t.doms = s.doms) (d : Dom) : t.dom d = s.dom d := by
  simp [State.dom, h]

@[simp] theorem State.dom_setPll (s : State) (p : PllId) (v : Pll) (c : Dom) : (s.setPll p v).dom c = s.dom c := rfl
@[simp] theorem State.pll_setDom (s : State) (d : Dom) (v : Domain) (q : PllId) : (s.setDom d v).pll q = s.pll q := rfl
@[simp] theorem State.pll_traced (s : State) (e : TraceEntry) (q : PllId) : (s.traced e).pll q = s.pll q := rfl
@[simp] theorem State.dom_traced (s : State) (e : TraceEntry) (c : Dom) : (s.traced e).dom c = s.dom c := rfl
@[simp] theorem State.pll_goto (s : State) (k : BitVec 8) (q : PllId) : (s.goto k).pll q = s.pll q := rfl
@[simp] theorem State.dom_goto (s : State) (k : BitVec 8) (c : Dom) : (s.goto k).dom c = s.dom c := rfl
@[simp] theorem State.pll_keep (s : State) (w : Work) (q : PllId) : (s.keep w).pll q = s.pll q := rfl
@[simp] theorem State.dom_keep (s : State) (w : Work) (c : Dom) : (s.keep w).dom c = s.dom c := rfl
@[simp] theorem State.pll_setX (s : State) (i : Fin 8) (v : Word) (q : PllId) : (s.setX i v).pll q = s.pll q := rfl
@[simp] theorem State.dom_setX (s : State) (i : Fin 8) (v : Word) (c : Dom) : (s.setX i v).dom c = s.dom c := rfl
@[simp] theorem State.pll_endCommand (s : State) (q : PllId) : (s.endCommand).pll q = s.pll q := rfl
@[simp] theorem State.dom_endCommand (s : State) (c : Dom) : (s.endCommand).dom c = s.dom c := rfl
@[simp] theorem State.pll_complete (s : State) (q : PllId) : (s.complete).pll q = s.pll q := rfl
@[simp] theorem State.dom_complete (s : State) (c : Dom) : (s.complete).dom c = s.dom c := rfl
@[simp] theorem State.pll_reject (s : State) (r : Rejection) (o : BitVec 8) (u : BitVec 4) (q : PllId) : (s.reject r o u).pll q = s.pll q := rfl
@[simp] theorem State.dom_reject (s : State) (r : Rejection) (o : BitVec 8) (u : BitVec 4) (c : Dom) : (s.reject r o u).dom c = s.dom c := rfl
@[simp] theorem State.pll_fatal (s : State) (r : Rejection) (g : BitVec 4) (o : BitVec 8) (u : BitVec 4) (q : PllId) : (s.fatal r g o u).pll q = s.pll q := rfl
@[simp] theorem State.dom_fatal (s : State) (r : Rejection) (g : BitVec 4) (o : BitVec 8) (u : BitVec 4) (c : Dom) : (s.fatal r g o u).dom c = s.dom c := rfl
@[simp] theorem State.pll_issue (s : State) (w : Word) (q : PllId) : (s.issue w).pll q = s.pll q := rfl
@[simp] theorem State.dom_issue (s : State) (w : Word) (c : Dom) : (s.issue w).dom c = s.dom c := rfl
@[simp] theorem State.pll_bringupEnd (s : State) (q : PllId) : (s.bringupEnd).pll q = s.pll q := rfl
@[simp] theorem State.dom_bringupEnd (s : State) (c : Dom) : (s.bringupEnd).dom c = s.dom c := rfl
@[simp] theorem State.pll_waited (s : State) (w : WaitId) (r : Reg) (k : BitVec 8) (q : PllId) : (s.waited w r k).pll q = s.pll q := rfl
@[simp] theorem State.dom_waited (s : State) (w : WaitId) (r : Reg) (k : BitVec 8) (c : Dom) : (s.waited w r k).dom c = s.dom c := rfl
@[simp] theorem State.pll_polled (s : State) (q : PllId) : (s.polled).pll q = s.pll q := rfl
@[simp] theorem State.dom_polled (s : State) (c : Dom) : (s.polled).dom c = s.dom c := rfl
@[simp] theorem State.pll_latchOscFreq (s : State) (w : Config.OscFreqLatch) (f : Word) (q : PllId) : (s.latchOscFreq w f).pll q = s.pll q := rfl
@[simp] theorem State.dom_latchOscFreq (s : State) (w : Config.OscFreqLatch) (f : Word) (c : Dom) : (s.latchOscFreq w f).dom c = s.dom c := rfl
@[simp] theorem State.dom_describePll (s : State) (p : PllId) (v o : Word) (c : Dom) : (s.describePll p v o).dom c = s.dom c := rfl
@[simp] theorem State.pll_describeDom (s : State) (d : Dom) (h : Word) (q : PllId) : (s.describeDom d h).pll q = s.pll q := rfl
@[simp] theorem State.pll_describePll (s : State) (p q : PllId) (v o : Word) : (s.describePll p v o).pll q = if q = p then { s.pll p with vcoHz := v, outHz := o } else s.pll q := Plls.get_set _ _ _ _
@[simp] theorem State.dom_describeDom (s : State) (d e : Dom) (h : Word) : (s.describeDom d h).dom e = if e = d then { s.dom d with hz := h, valid := true } else s.dom e := Domains.get_set _ _ _ _

/-! ### Results: only x changes -/

theorem State.setResults_eq (s : State) (rs : List (Fin 8 × Word)) :
    s.setResults rs = { s with x := (s.setResults rs).x } := by
  induction rs generalizing s with
  | nil => rfl
  | cons r rest ih => rw [State.setResults, ih]; rfl

@[simp] theorem State.setResults_params (s : State) (rs : List (Fin 8 × Word)) : (s.setResults rs).params = s.params := by rw [State.setResults_eq]
@[simp] theorem State.setResults_fsm (s : State) (rs : List (Fin 8 × Word)) : (s.setResults rs).fsm = s.fsm := by rw [State.setResults_eq]
@[simp] theorem State.setResults_sub (s : State) (rs : List (Fin 8 × Word)) : (s.setResults rs).sub = s.sub := by rw [State.setResults_eq]
@[simp] theorem State.setResults_step (s : State) (rs : List (Fin 8 × Word)) : (s.setResults rs).step = s.step := by rw [State.setResults_eq]
@[simp] theorem State.setResults_busy (s : State) (rs : List (Fin 8 × Word)) : (s.setResults rs).busy = s.busy := by rw [State.setResults_eq]
@[simp] theorem State.setResults_done (s : State) (rs : List (Fin 8 × Word)) : (s.setResults rs).done = s.done := by rw [State.setResults_eq]
@[simp] theorem State.setResults_error (s : State) (rs : List (Fin 8 × Word)) : (s.setResults rs).error = s.error := by rw [State.setResults_eq]
@[simp] theorem State.setResults_overrun (s : State) (rs : List (Fin 8 × Word)) : (s.setResults rs).overrun = s.overrun := by rw [State.setResults_eq]
@[simp] theorem State.setResults_cmd (s : State) (rs : List (Fin 8 × Word)) : (s.setResults rs).cmd = s.cmd := by rw [State.setResults_eq]
@[simp] theorem State.setResults_err (s : State) (rs : List (Fin 8 × Word)) : (s.setResults rs).err = s.err := by rw [State.setResults_eq]
@[simp] theorem State.setResults_errsnap (s : State) (rs : List (Fin 8 × Word)) : (s.setResults rs).errsnap = s.errsnap := by rw [State.setResults_eq]
@[simp] theorem State.setResults_waitLimit (s : State) (rs : List (Fin 8 × Word)) : (s.setResults rs).waitLimit = s.waitLimit := by rw [State.setResults_eq]
@[simp] theorem State.setResults_pollcnt (s : State) (rs : List (Fin 8 × Word)) : (s.setResults rs).pollcnt = s.pollcnt := by rw [State.setResults_eq]
@[simp] theorem State.setResults_oscFreq (s : State) (rs : List (Fin 8 × Word)) : (s.setResults rs).oscFreq = s.oscFreq := by rw [State.setResults_eq]
@[simp] theorem State.setResults_rstCtrl (s : State) (rs : List (Fin 8 × Word)) : (s.setResults rs).rstCtrl = s.rstCtrl := by rw [State.setResults_eq]
@[simp] theorem State.setResults_rstDone (s : State) (rs : List (Fin 8 × Word)) : (s.setResults rs).rstDone = s.rstDone := by rw [State.setResults_eq]
@[simp] theorem State.setResults_osc (s : State) (rs : List (Fin 8 × Word)) : (s.setResults rs).osc = s.osc := by rw [State.setResults_eq]
@[simp] theorem State.setResults_plls (s : State) (rs : List (Fin 8 × Word)) : (s.setResults rs).plls = s.plls := by rw [State.setResults_eq]
@[simp] theorem State.setResults_doms (s : State) (rs : List (Fin 8 × Word)) : (s.setResults rs).doms = s.doms := by rw [State.setResults_eq]
@[simp] theorem State.setResults_fc (s : State) (rs : List (Fin 8 × Word)) : (s.setResults rs).fc = s.fc := by rw [State.setResults_eq]
@[simp] theorem State.setResults_work (s : State) (rs : List (Fin 8 × Word)) : (s.setResults rs).work = s.work := by rw [State.setResults_eq]
@[simp] theorem State.setResults_trace (s : State) (rs : List (Fin 8 × Word)) : (s.setResults rs).trace = s.trace := by rw [State.setResults_eq]
@[simp] theorem State.setResults_schedule (s : State) (rs : List (Fin 8 × Word)) : (s.setResults rs).schedule = s.schedule := by rw [State.setResults_eq]
@[simp] theorem State.setResults_busReply (s : State) (rs : List (Fin 8 × Word)) : (s.setResults rs).busReply = s.busReply := by rw [State.setResults_eq]
@[simp] theorem State.pll_setResults (s : State) (rs : List (Fin 8 × Word)) (q : PllId) : (s.setResults rs).pll q = s.pll q := by rw [State.setResults_eq]; rfl
@[simp] theorem State.dom_setResults (s : State) (rs : List (Fin 8 × Word)) (c : Dom) : (s.setResults rs).dom c = s.dom c := by rw [State.setResults_eq]; rfl

/-! ### The end of a sub-operation -/

@[simp] theorem State.recordMeasurement_params (s : State) (k : Nat) : (s.recordMeasurement k).params = s.params := by unfold State.recordMeasurement; split <;> [rfl; (split <;> rfl)]
@[simp] theorem State.recordMeasurement_x (s : State) (k : Nat) : (s.recordMeasurement k).x = s.x := by unfold State.recordMeasurement; split <;> [rfl; (split <;> rfl)]
@[simp] theorem State.recordMeasurement_fsm (s : State) (k : Nat) : (s.recordMeasurement k).fsm = s.fsm := by unfold State.recordMeasurement; split <;> [rfl; (split <;> rfl)]
@[simp] theorem State.recordMeasurement_sub (s : State) (k : Nat) : (s.recordMeasurement k).sub = s.sub := by unfold State.recordMeasurement; split <;> [rfl; (split <;> rfl)]
@[simp] theorem State.recordMeasurement_step (s : State) (k : Nat) : (s.recordMeasurement k).step = s.step := by unfold State.recordMeasurement; split <;> [rfl; (split <;> rfl)]
@[simp] theorem State.recordMeasurement_busy (s : State) (k : Nat) : (s.recordMeasurement k).busy = s.busy := by unfold State.recordMeasurement; split <;> [rfl; (split <;> rfl)]
@[simp] theorem State.recordMeasurement_done (s : State) (k : Nat) : (s.recordMeasurement k).done = s.done := by unfold State.recordMeasurement; split <;> [rfl; (split <;> rfl)]
@[simp] theorem State.recordMeasurement_error (s : State) (k : Nat) : (s.recordMeasurement k).error = s.error := by unfold State.recordMeasurement; split <;> [rfl; (split <;> rfl)]
@[simp] theorem State.recordMeasurement_overrun (s : State) (k : Nat) : (s.recordMeasurement k).overrun = s.overrun := by unfold State.recordMeasurement; split <;> [rfl; (split <;> rfl)]
@[simp] theorem State.recordMeasurement_cmd (s : State) (k : Nat) : (s.recordMeasurement k).cmd = s.cmd := by unfold State.recordMeasurement; split <;> [rfl; (split <;> rfl)]
@[simp] theorem State.recordMeasurement_err (s : State) (k : Nat) : (s.recordMeasurement k).err = s.err := by unfold State.recordMeasurement; split <;> [rfl; (split <;> rfl)]
@[simp] theorem State.recordMeasurement_errsnap (s : State) (k : Nat) : (s.recordMeasurement k).errsnap = s.errsnap := by unfold State.recordMeasurement; split <;> [rfl; (split <;> rfl)]
@[simp] theorem State.recordMeasurement_waitLimit (s : State) (k : Nat) : (s.recordMeasurement k).waitLimit = s.waitLimit := by unfold State.recordMeasurement; split <;> [rfl; (split <;> rfl)]
@[simp] theorem State.recordMeasurement_pollcnt (s : State) (k : Nat) : (s.recordMeasurement k).pollcnt = s.pollcnt := by unfold State.recordMeasurement; split <;> [rfl; (split <;> rfl)]
@[simp] theorem State.recordMeasurement_oscFreq (s : State) (k : Nat) : (s.recordMeasurement k).oscFreq = s.oscFreq := by unfold State.recordMeasurement; split <;> [rfl; (split <;> rfl)]
@[simp] theorem State.recordMeasurement_rstCtrl (s : State) (k : Nat) : (s.recordMeasurement k).rstCtrl = s.rstCtrl := by unfold State.recordMeasurement; split <;> [rfl; (split <;> rfl)]
@[simp] theorem State.recordMeasurement_rstDone (s : State) (k : Nat) : (s.recordMeasurement k).rstDone = s.rstDone := by unfold State.recordMeasurement; split <;> [rfl; (split <;> rfl)]
@[simp] theorem State.recordMeasurement_osc (s : State) (k : Nat) : (s.recordMeasurement k).osc = s.osc := by unfold State.recordMeasurement; split <;> [rfl; (split <;> rfl)]
@[simp] theorem State.recordMeasurement_plls (s : State) (k : Nat) : (s.recordMeasurement k).plls = s.plls := by unfold State.recordMeasurement; split <;> [rfl; (split <;> rfl)]
@[simp] theorem State.recordMeasurement_fc (s : State) (k : Nat) : (s.recordMeasurement k).fc = s.fc := by unfold State.recordMeasurement; split <;> [rfl; (split <;> rfl)]
@[simp] theorem State.recordMeasurement_work (s : State) (k : Nat) : (s.recordMeasurement k).work = s.work := by unfold State.recordMeasurement; split <;> [rfl; (split <;> rfl)]
@[simp] theorem State.recordMeasurement_trace (s : State) (k : Nat) : (s.recordMeasurement k).trace = s.trace := by unfold State.recordMeasurement; split <;> [rfl; (split <;> rfl)]
@[simp] theorem State.recordMeasurement_schedule (s : State) (k : Nat) : (s.recordMeasurement k).schedule = s.schedule := by unfold State.recordMeasurement; split <;> [rfl; (split <;> rfl)]
@[simp] theorem State.recordMeasurement_busReply (s : State) (k : Nat) : (s.recordMeasurement k).busReply = s.busReply := by unfold State.recordMeasurement; split <;> [rfl; (split <;> rfl)]

@[simp] theorem State.pll_recordMeasurement (s : State) (k : Nat) (q : PllId) : (s.recordMeasurement k).pll q = s.pll q := by simp [State.pll]

theorem State.dom_recordMeasurement (s : State) (k : Nat) (d : Dom) :
    (s.recordMeasurement k).dom d = { s.dom d with measKhz := ((s.recordMeasurement k).dom d).measKhz } := by
  unfold State.recordMeasurement
  split
  · rfl
  · split
    · simp only [State.dom_setDom]
      split
      case isTrue h => subst h; rfl
      case isFalse => rfl
    · rfl

@[simp] theorem State.nextSub_params (s : State) (k : Nat) : (s.nextSub k).params = s.params := by unfold State.nextSub; split <;> simp
@[simp] theorem State.nextSub_x (s : State) (k : Nat) : (s.nextSub k).x = s.x := by unfold State.nextSub; split <;> simp
@[simp] theorem State.nextSub_error (s : State) (k : Nat) : (s.nextSub k).error = s.error := by unfold State.nextSub; split <;> simp
@[simp] theorem State.nextSub_overrun (s : State) (k : Nat) : (s.nextSub k).overrun = s.overrun := by unfold State.nextSub; split <;> simp
@[simp] theorem State.nextSub_cmd (s : State) (k : Nat) : (s.nextSub k).cmd = s.cmd := by unfold State.nextSub; split <;> simp
@[simp] theorem State.nextSub_err (s : State) (k : Nat) : (s.nextSub k).err = s.err := by unfold State.nextSub; split <;> simp
@[simp] theorem State.nextSub_errsnap (s : State) (k : Nat) : (s.nextSub k).errsnap = s.errsnap := by unfold State.nextSub; split <;> simp
@[simp] theorem State.nextSub_waitLimit (s : State) (k : Nat) : (s.nextSub k).waitLimit = s.waitLimit := by unfold State.nextSub; split <;> simp
@[simp] theorem State.nextSub_oscFreq (s : State) (k : Nat) : (s.nextSub k).oscFreq = s.oscFreq := by unfold State.nextSub; split <;> simp
@[simp] theorem State.nextSub_rstCtrl (s : State) (k : Nat) : (s.nextSub k).rstCtrl = s.rstCtrl := by unfold State.nextSub; split <;> simp
@[simp] theorem State.nextSub_rstDone (s : State) (k : Nat) : (s.nextSub k).rstDone = s.rstDone := by unfold State.nextSub; split <;> simp
@[simp] theorem State.nextSub_osc (s : State) (k : Nat) : (s.nextSub k).osc = s.osc := by unfold State.nextSub; split <;> simp
@[simp] theorem State.nextSub_plls (s : State) (k : Nat) : (s.nextSub k).plls = s.plls := by unfold State.nextSub; split <;> simp
@[simp] theorem State.nextSub_fc (s : State) (k : Nat) : (s.nextSub k).fc = s.fc := by unfold State.nextSub; split <;> simp
@[simp] theorem State.nextSub_trace (s : State) (k : Nat) : (s.nextSub k).trace = s.trace := by unfold State.nextSub; split <;> simp
@[simp] theorem State.nextSub_schedule (s : State) (k : Nat) : (s.nextSub k).schedule = s.schedule := by unfold State.nextSub; split <;> simp
@[simp] theorem State.nextSub_busReply (s : State) (k : Nat) : (s.nextSub k).busReply = s.busReply := by unfold State.nextSub; split <;> simp
@[simp] theorem State.nextSub_step (s : State) (k : Nat) : (s.nextSub k).step = 0#8 := by unfold State.nextSub; split <;> simp
@[simp] theorem State.nextSub_pollcnt (s : State) (k : Nat) : (s.nextSub k).pollcnt = 0#32 := by unfold State.nextSub; split <;> simp
@[simp] theorem State.nextSub_work (s : State) (k : Nat) : (s.nextSub k).work = .idle := by unfold State.nextSub; split <;> simp
@[simp] theorem State.pll_nextSub (s : State) (k : Nat) (q : PllId) : (s.nextSub k).pll q = s.pll q := by simp [State.pll]

/-- The end of a sub-operation changes nothing of a domain but its measurement. -/
theorem State.dom_nextSub (s : State) (k : Nat) (d : Dom) :
    (s.nextSub k).dom d = { s.dom d with measKhz := ((s.nextSub k).dom d).measKhz } := by
  unfold State.nextSub
  split
  · exact s.dom_recordMeasurement k d
  · exact s.dom_recordMeasurement k d

end Sys2Proof.Machine
end

