-- ==== Sys2Proof/Laws/Fields.lean ====
section
/-! SUPPORT. The fields of assembled words: what a Wait reads in a status word, and what a RegWrite of an
assembled word stores. -/

namespace Sys2Proof.Machine

/-! ### What the Waits read -/

@[simp] theorem Osc.statusWord_stable (o : Osc) : o.statusWord[31] = o.stable := by
  have key : ∀ st b e : Bool,
      (BitVec.ofBool st ++ 0#6 ++ BitVec.ofBool b ++ 0#23 ++ BitVec.ofBool e : Word)[31] = st := by decide
  exact key _ _ _

@[simp] theorem Pll.csWord_lock (p : Pll) : p.csWord[31] = p.lock := by
  have key : ∀ (l : Bool) (r : BitVec 6), (BitVec.ofBool l ++ 0#25 ++ r : Word)[31] = l := by decide
  exact key _ _

@[simp] theorem Counter.statusWord_running (c : Counter) : c.statusWord[0] = c.running := by
  have key : ∀ f p d r : Bool,
      (0#28 ++ BitVec.ofBool f ++ BitVec.ofBool p ++ BitVec.ofBool d ++ BitVec.ofBool r : Word)[0] = r := by
    decide
  exact key _ _ _ _

@[simp] theorem Counter.statusWord_done (c : Counter) : c.statusWord[1] = c.done := by
  have key : ∀ f p d r : Bool,
      (0#28 ++ BitVec.ofBool f ++ BitVec.ofBool p ++ BitVec.ofBool d ++ BitVec.ofBool r : Word)[1] = d := by
    decide
  exact key _ _ _ _

@[simp] theorem selectedWord_eq (p q : Path) : (selectedWord p == selectedWord q) = (p == q) := by
  cases p <;> cases q <;> rfl

/-! ### What a RegWrite of an assembled word stores -/

@[simp] theorem pathOfBit_clkCtrlWord (m : Path) (a : BitVec 3) (e : Bool) :
    Path.ofBit (clkCtrlWord m a e)[0] = m := by
  cases m <;> decide +revert

@[simp] theorem auxsrc_clkCtrlWord (m : Path) (a : BitVec 3) (e : Bool) :
    (clkCtrlWord m a e).extractLsb' 4 3 = a := by
  cases m <;> decide +revert

@[simp] theorem enable_clkCtrlWord (m : Path) (a : BitVec 3) (e : Bool) :
    (clkCtrlWord m a e)[11] = e := by
  cases m <;> decide +revert

/-- Writing CLK_CTRL[d] with given field values stores them, but for the field reserved in d's kind. -/
@[simp] theorem Domain.writeCtrl_clkCtrlWord (v : Domain) (d : Dom) (m : Path) (a : BitVec 3) (e : Bool) :
    v.writeCtrl d (clkCtrlWord m a e) =
      { v with
        main := if d.twoStage then m else v.main, auxsrc := a,
        enable := if d.twoStage then v.enable else e } := by
  simp [Domain.writeCtrl]

@[simp] theorem refdiv_of_word (r : BitVec 6) : (r.setWidth 32).extractLsb' 0 6 = r := by
  decide +revert

@[simp] theorem fbdiv_of_word (f : BitVec 9) : (f.setWidth 32).extractLsb' 0 9 = f := by
  ext i hi
  simp [BitVec.getLsbD_eq_getElem hi]
  omega

@[simp] theorem delay_of_word (f : BitVec 16) : (f.setWidth 32).extractLsb' 0 16 = f := by
  ext i hi
  simp [BitVec.getLsbD_eq_getElem hi]
  omega

@[simp] theorem src_of_word (f : BitVec 8) : (f.setWidth 32).extractLsb' 0 8 = f := by
  ext i hi
  simp [BitVec.getLsbD_eq_getElem hi]
  omega

@[simp] theorem interval_of_word (f : BitVec 4) : (f.setWidth 32).extractLsb' 0 4 = f := by
  decide +revert

@[simp] theorem postdiv1_of_word (a b : BitVec 3) :
    ((0#25 ++ b ++ 0#1 ++ a : Word)).extractLsb' 0 3 = a := by
  decide +revert

@[simp] theorem postdiv2_of_word (a b : BitVec 3) :
    ((0#25 ++ b ++ 0#1 ++ a : Word)).extractLsb' 4 3 = b := by
  decide +revert

/-- Powering everything down clears LOCK (10_state.md R53). -/
@[simp] theorem Pll.writePwr_allDown (p : Pll) :
    p.writePwr 0b111#32 = { p with corePd := true, vcoPd := true, postdivPd := true, lock := false } := by
  simp [Pll.writePwr]

/-- Powering up the core and VCO domains keeps LOCK. -/
@[simp] theorem Pll.writePwr_coreUp (p : Pll) :
    p.writePwr 0b100#32 = { p with corePd := false, vcoPd := false, postdivPd := true } := by
  simp [Pll.writePwr]

/-- Powering up every domain keeps LOCK. -/
@[simp] theorem Pll.writePwr_allUp (p : Pll) :
    p.writePwr 0b000#32 = { p with corePd := false, vcoPd := false, postdivPd := false } := by
  simp [Pll.writePwr]

/-- Zeroing the feedback divider clears LOCK (10_state.md R53). -/
@[simp] theorem Pll.writeFbdiv_zero (p : Pll) : p.writeFbdiv 0#32 = { p with fbdiv := 0#9, lock := false } := by
  simp [Pll.writeFbdiv]

/-- Writing a feedback divider stores it, and keeps LOCK unless it is 0. -/
@[simp] theorem Pll.writeFbdiv_word (p : Pll) (f : BitVec 9) :
    p.writeFbdiv (f.setWidth 32) = { p with fbdiv := f, lock := p.lock && f != 0#9 } := by
  simp only [Pll.writeFbdiv, fbdiv_of_word]

end Sys2Proof.Machine
end

