-- ==== Sys2Proof/Laws/Ops.lean ====
section
/-! SUPPORT. What each shared operation can do, said once: the RegWrite, the Wait, the state gate, the endings of a
command. Later proofs cite these and do not unfold the operations. -/

namespace Sys2Proof.Machine

/-! ### RegWrite: the fields no write changes -/

section
variable (s : State) (r : Reg) (v : Word)

@[simp] theorem State.regWrite_params : (s.regWrite r v).params = s.params := by cases r <;> rfl
@[simp] theorem State.regWrite_x : (s.regWrite r v).x = s.x := by cases r <;> rfl
@[simp] theorem State.regWrite_fsm : (s.regWrite r v).fsm = s.fsm := by cases r <;> rfl
@[simp] theorem State.regWrite_sub : (s.regWrite r v).sub = s.sub := by cases r <;> rfl
@[simp] theorem State.regWrite_step : (s.regWrite r v).step = s.step := by cases r <;> rfl
@[simp] theorem State.regWrite_busy : (s.regWrite r v).busy = s.busy := by cases r <;> rfl
@[simp] theorem State.regWrite_done : (s.regWrite r v).done = s.done := by cases r <;> rfl
@[simp] theorem State.regWrite_error : (s.regWrite r v).error = s.error := by cases r <;> rfl
@[simp] theorem State.regWrite_overrun : (s.regWrite r v).overrun = s.overrun := by cases r <;> rfl
@[simp] theorem State.regWrite_cmd : (s.regWrite r v).cmd = s.cmd := by cases r <;> rfl
@[simp] theorem State.regWrite_err : (s.regWrite r v).err = s.err := by cases r <;> rfl
@[simp] theorem State.regWrite_errsnap : (s.regWrite r v).errsnap = s.errsnap := by cases r <;> rfl
@[simp] theorem State.regWrite_waitLimit : (s.regWrite r v).waitLimit = s.waitLimit := by cases r <;> rfl
@[simp] theorem State.regWrite_pollcnt : (s.regWrite r v).pollcnt = s.pollcnt := by cases r <;> rfl
@[simp] theorem State.regWrite_oscFreq : (s.regWrite r v).oscFreq = s.oscFreq := by cases r <;> rfl
@[simp] theorem State.regWrite_work : (s.regWrite r v).work = s.work := by cases r <;> rfl
@[simp] theorem State.regWrite_schedule : (s.regWrite r v).schedule = s.schedule := by cases r <;> rfl
@[simp] theorem State.regWrite_busReply : (s.regWrite r v).busReply = s.busReply := by cases r <;> rfl
@[simp] theorem State.regWrite_trace : (s.regWrite r v).trace = s.trace ++ [.write r v] := by cases r <;> rfl

end

/-! ### RegWrite: what each target register's write stores -/

section
variable (s : State) (v : Word)

theorem State.regWrite_rstCtrl :
    s.regWrite .rstCtrl v =
      { s with rstCtrl := v &&& s.params.periphAll, rstDone := s.rstDone &&& ~~~v,
               trace := s.trace ++ [.write .rstCtrl v] } := rfl

theorem State.regWrite_oscStatus :
    s.regWrite .oscStatus 0x01000000#32 =
      { s with osc := { s.osc with badWrite := false }, trace := s.trace ++ [.write .oscStatus 0x01000000#32] } := by
  simp [State.regWrite, State.regStore, State.traced]

theorem State.regWrite_oscCtrl :
    s.regWrite .oscCtrl 0x00000100#32 =
      { s with osc := { s.osc with range := 0#4, enable := true },
               trace := s.trace ++ [.write .oscCtrl 0x00000100#32] } := by
  simp [State.regWrite, State.regStore, State.traced]

theorem State.regWrite_oscStartup (delay : BitVec 16) :
    s.regWrite .oscStartup (delay.setWidth 32) =
      { s with osc := { s.osc with delay := delay },
               trace := s.trace ++ [.write .oscStartup (delay.setWidth 32)] } := by
  simp only [State.regWrite, State.regStore, State.traced, delay_of_word]

theorem State.regWrite_pllCs (p : PllId) (refdiv : BitVec 6) :
    s.regWrite (.pllCs p) (refdiv.setWidth 32) =
      (s.setPll p { s.pll p with refdiv := refdiv }).traced (.write (.pllCs p) (refdiv.setWidth 32)) := by
  simp only [State.regWrite, State.regStore, refdiv_of_word]

theorem State.regWrite_pllPwr (p : PllId) :
    s.regWrite (.pllPwr p) v = (s.setPll p ((s.pll p).writePwr v)).traced (.write (.pllPwr p) v) := rfl

theorem State.regWrite_pllFbdiv (p : PllId) :
    s.regWrite (.pllFbdiv p) v = (s.setPll p ((s.pll p).writeFbdiv v)).traced (.write (.pllFbdiv p) v) := rfl

theorem State.regWrite_pllPrim (p : PllId) (pd1 pd2 : BitVec 3) :
    s.regWrite (.pllPrim p) (0#25 ++ pd2 ++ 0#1 ++ pd1) =
      (s.setPll p { s.pll p with postdiv1 := pd1, postdiv2 := pd2 }).traced
        (.write (.pllPrim p) (0#25 ++ pd2 ++ 0#1 ++ pd1)) := by
  simp only [State.regWrite, State.regStore, postdiv1_of_word, postdiv2_of_word]

theorem State.regWrite_clkDiv (d : Dom) :
    s.regWrite (.clkDiv d) v = (s.setDom d { s.dom d with div := v }).traced (.write (.clkDiv d) v) := rfl

theorem State.writeMain_eq (d : Dom) (m : Path) :
    s.writeMain d m =
      (s.setDom d { s.dom d with main := if d.twoStage then m else (s.dom d).main }).traced
        (.write (.clkCtrl d) (clkCtrlWord m (s.dom d).auxsrc ((s.dom d).enableOf d))) := by
  simp only [State.writeMain, State.regWrite, State.regStore, Domain.writeCtrl_clkCtrlWord, Domain.enableOf]
  cases d.twoStage <;> simp

theorem State.writeAuxsrc_eq (d : Dom) (a : BitVec 3) :
    s.writeAuxsrc d a =
      (s.setDom d { s.dom d with auxsrc := a }).traced
        (.write (.clkCtrl d) (clkCtrlWord ((s.dom d).mainOf d) a ((s.dom d).enableOf d))) := by
  simp only [State.writeAuxsrc, State.regWrite, State.regStore, Domain.writeCtrl_clkCtrlWord, Domain.enableOf,
    Domain.mainOf]
  cases d.twoStage <;> simp

theorem State.writeEnable_eq (d : Dom) (e : Bool) :
    s.writeEnable d e =
      (s.setDom d { s.dom d with enable := if d.twoStage then (s.dom d).enable else e }).traced
        (.write (.clkCtrl d) (clkCtrlWord ((s.dom d).mainOf d) (s.dom d).auxsrc e)) := by
  simp only [State.writeEnable, State.regWrite, State.regStore, Domain.writeCtrl_clkCtrlWord, Domain.mainOf]
  cases d.twoStage <;> simp

theorem State.regWrite_fcRefKhz :
    s.regWrite .fcRefKhz v =
      { s with fc := { s.fc with refKhz := v }, trace := s.trace ++ [.write .fcRefKhz v] } := rfl

theorem State.regWrite_fcMinKhz :
    s.regWrite .fcMinKhz v =
      { s with fc := { s.fc with minKhz := v }, trace := s.trace ++ [.write .fcMinKhz v] } := rfl

theorem State.regWrite_fcMaxKhz :
    s.regWrite .fcMaxKhz v =
      { s with fc := { s.fc with maxKhz := v }, trace := s.trace ++ [.write .fcMaxKhz v] } := rfl

theorem State.regWrite_fcInterval (i : BitVec 4) :
    s.regWrite .fcInterval (i.setWidth 32) =
      { s with fc := { s.fc with interval := i }, trace := s.trace ++ [.write .fcInterval (i.setWidth 32)] } := by
  simp only [State.regWrite, State.regStore, State.traced, interval_of_word]

theorem State.regWrite_fcSrc (src : BitVec 8) :
    s.regWrite .fcSrc (src.setWidth 32) =
      { s with fc := s.fc.writeSrc src, trace := s.trace ++ [.write .fcSrc (src.setWidth 32)] } := by
  simp only [State.regWrite, State.regStore, State.traced, src_of_word]

end

/-! ### Wait -/

/-- Everything one poll of a Wait can do (60_exceptions.md R203). -/
theorem State.wait_cases (s : State) (w : WaitId) (r : Reg) (pred : Word → Bool) (k : BitVec 8) :
    (pred (s.regRead r) = true ∧ s.wait w r pred k = .cont (s.waited w r k)) ∨
    (pred (s.regRead r) = false ∧ s.waitLimit ≠ 0#32 ∧ s.waitLimit ≤ nextPoll s.pollcnt ∧
      s.wait w r pred k = .timeout w (s.regRead r)) ∨
    (pred (s.regRead r) = false ∧ (s.waitLimit = 0#32 ∨ nextPoll s.pollcnt < s.waitLimit) ∧
      s.wait w r pred k = .cont s.polled) := by
  unfold State.wait
  cases hp : pred (s.regRead r)
  · by_cases hl : s.waitLimit ≠ 0#32 ∧ s.waitLimit ≤ nextPoll s.pollcnt
    · exact .inr (.inl ⟨rfl, hl.1, hl.2, by simp [hl]⟩)
    · refine .inr (.inr ⟨rfl, ?_, by simp [hl]⟩)
      by_cases h0 : s.waitLimit = 0#32
      · exact .inl h0
      · exact .inr (BitVec.not_le.mp (fun h => hl ⟨h0, h⟩))
  · exact .inl ⟨rfl, by simp⟩

/-! ### The endings -/

/-- Everything a command of its own can make of a micro-operation (30_encoding.md R88, 60_exceptions.md R201 to
R203). -/
theorem State.commandStep_cases (s t : State) (opc : BitVec 8) (unit : BitVec 4) (m : Micro)
    (h : s.commandStep opc unit m = .next t) :
    (m = .cont t) ∨
    (∃ u rs, m = .finish u rs ∧ t = (u.setResults rs).complete) ∨
    (∃ r, m = .reject r ∧ t = s.reject r opc unit) ∨
    (∃ w v, m = .timeout w v ∧ t = s.fatal ⟨w.cause, v⟩ 0#4 opc unit) := by
  cases m <;> simp_all [State.commandStep]

/-- Everything BRINGUP can make of a micro-operation (46_bringup_sequencer.md R187, R189). -/
theorem State.bringupStep_cases (s t : State) (k : Nat) (o : Op) (m : Micro)
    (h : s.bringupStep k o m = .next t) :
    (m = .cont t) ∨
    (∃ u rs, m = .finish u rs ∧ t = u.nextSub k) ∨
    (∃ r, m = .reject r ∧ t = s.fatal r s.stage o.opcode o.unit) ∨
    (∃ w v, m = .timeout w v ∧ t = s.fatal ⟨w.cause, v⟩ s.stage o.opcode o.unit) := by
  cases m <;> simp_all [State.bringupStep]

/-- Everything the state gate can do (30_encoding.md R87). -/
theorem State.gate_cases (s t : State) (inReady : Bool) (opc : BitVec 8) (unit : BitVec 4)
    (run : Host.Outcome State Fault Refusal) (h : s.gate inReady opc unit run = .next t) :
    (run = .next t ∧ (s.fsm = .powerOnReset ∨ (s.fsm = .ready ∧ inReady = true))) ∨
    (s.fsm = .ready ∧ inReady = false ∧ t = s.reject ⟨.locked, 0#28 ++ s.fsm.code⟩ opc unit) := by
  unfold State.gate at h
  split at h
  case h_1 hf => exact .inl ⟨h, .inl hf⟩
  case h_2 hf =>
    cases inReady
    · simp at h; exact .inr ⟨hf, rfl, h.symm⟩
    · exact .inl ⟨by simpa using h, .inr ⟨hf, rfl⟩⟩
  all_goals cases h

end Sys2Proof.Machine
end

