-- ==== Sys2Proof/Laws/Host.lean ====
section
/-! SUPPORT. Everything one host access can do, said once. -/

namespace Sys2Proof.Machine

/-- What a host access leaves, but for the port's answer (20_memory.md R62 to R65). -/
inductive Served (s : State) : State → Prop where
  | nothing : Served s s
  | issued (w : Word) (accepts : s.acceptsWrites = true) : Served s (s.issue w)
  | operand (i : Fin 8) (v : Word) (accepts : s.acceptsWrites = true) : Served s (s.setX i v)
  | limit (v : Word) (accepts : s.acceptsWrites = true) : Served s { s with waitLimit := v }
  | dropped (refuses : s.acceptsWrites = false) : Served s s.dropWrite
  | cleared : Served s { s with overrun := false }

theorem hostWrite_inv (s : State) (r : Reg) (v : Word) : Served s (s.hostWrite r v) := by
  cases ha : s.acceptsWrites <;> cases r <;> simp only [State.hostWrite, ha] <;>
    first
      | exact .nothing
      | exact .dropped ha
      | exact .issued _ ha
      | exact .operand _ _ ha
      | exact .limit _ ha
      | (split
         · exact .cleared
         · exact .nothing)

theorem hostWriteAt_inv (s : State) (o : Nat) (v : Word) : Served s (s.hostWriteAt o v) := by
  unfold State.hostWriteAt
  split
  · exact hostWrite_inv _ _ _
  · exact .nothing

/-- A host access leaves one of the states of `Served`, and the port's answer. -/
theorem hostAccess_inv (s : State) (a : HostAccess) :
    ∃ u b, Served s u ∧ s.hostAccess a = { u with busReply := b } := by
  cases a with
  | read addr n =>
    simp only [State.hostAccess]
    split
    · exact ⟨s, s.busReply, .nothing, rfl⟩
    · split <;> exact ⟨s, _, .nothing, rfl⟩
  | write addr n v =>
    simp only [State.hostAccess]
    split
    · exact ⟨s, s.busReply, .nothing, rfl⟩
    · split
      · exact ⟨_, _, hostWriteAt_inv _ _ _, rfl⟩
      · exact ⟨s, _, .nothing, rfl⟩

end Sys2Proof.Machine
end

