-- ==== Sys2Proof/Laws/Bus.lean ====
section
/-! SUPPORT. The byte view of the register space in terms of register reads. -/

namespace Sys2Proof.Machine

/-- A register found at an offset stands there. -/
theorem Reg.offset_of_ofOffset {o : Nat} {r : Reg} (h : Reg.ofOffset o = some r) : r.offset = o := by
  have := List.find?_some h
  simpa using this

/-- The word at an offset is the same if every register there reads the same. -/
theorem State.wordAt_congr {s t : State} {o : Nat} (h : ∀ r, r.offset = o → t.regRead r = s.regRead r) :
    t.wordAt o = s.wordAt o := by
  unfold State.wordAt
  cases hr : Reg.ofOffset o with
  | none => rfl
  | some r => exact h r (Reg.offset_of_ofOffset hr)

/-- If every register outside a list reads the same, so does every byte outside it. -/
theorem State.sameBytesOutside_of_regRead {s t : State} {rs : List Reg}
    (h : ∀ r, r ∉ rs → t.regRead r = s.regRead r) : s.sameBytesOutside t rs := by
  intro a ha
  unfold State.byteAt
  rw [State.wordAt_congr]
  intro r hr
  exact h r (fun hm => ha r hm hr.symm)

end Sys2Proof.Machine
end

