-- ==== Sys2Proof/Laws/Micro.lean ====
section
/-! SUPPORT. What one micro-operation can do, said once: `Accepted` lists what the validation of an operation has
checked when it passes, `Ran` lists every later micro-operation of every operation with its outcome. A proof about
what a step can do is a case analysis of these two. -/

namespace Sys2Proof.Machine

/-! ### The achieved frequency -/

/-- DOM_HZ takes the achieved frequency wherever 32 bits hold it. -/
theorem domHzOf_fits {src : Nat} {div : Word} (h : achievedHz src div < 2 ^ 32) :
    domHzOf src div = BitVec.ofNat 32 (achievedHz src div) := if_pos h

/-- A 32-bit source frequency over a legal divisor stays in 32 bits: no DIV_APPLY of its own meets the free value. -/
theorem achievedHz_lt {src : Nat} {div : Word} (fits : src < 2 ^ 32) (legal : 256 ≤ div.toNat) :
    achievedHz src div < 2 ^ 32 := by
  unfold achievedHz
  rw [Nat.div_lt_iff_lt_mul (by omega), Nat.shiftLeft_eq]
  exact Nat.lt_of_lt_of_le (Nat.mul_lt_mul_of_pos_right fits (by decide)) (Nat.mul_le_mul_left _ legal)

/-! ### The two halves of an operation -/

/-- The first micro-operation of an operation. -/
def startOp (o : Op) (s : State) : Micro :=
  match o with
  | .hold set => startHold set s
  | .release set => startRelease set s
  | .osc f => startOsc f s
  | .pll p refdiv pd1 pd2 targetVco => startPll p refdiv pd1 pd2 targetVco s
  | .mux dom main auxsrc => startMux dom main auxsrc s
  | .div dom main auxsrc src dst => startDiv dom main auxsrc src dst s
  | .fc src refKhz => startFc src refKhz s

/-- A later micro-operation, from the hidden state alone. -/
def workStep (w : Work) (k : Nat) (s : State) : Micro :=
  match w with
  | .idle => .stray
  | .hold set => holdStep set k s
  | .release set => releaseStep set k s
  | .osc f delay => oscStep f delay k s
  | .pll p refdiv pd1 pd2 fbdiv vcoHz => pllStep p refdiv pd1 pd2 fbdiv vcoHz k s
  | .mux d main auxsrc stepped => muxStep d main auxsrc stepped k s
  | .div d main auxsrc src div old stepped settle left => divStep d main auxsrc src div old stepped settle left k s
  | .fc src refKhz => fcStep src refKhz k s

/-- The hidden state is one of the operation's kind. -/
def Op.sameKind (o : Op) (w : Work) : Bool :=
  match o, w with
  | .hold _, .hold _ => true
  | .release _, .release _ => true
  | .osc _, .osc _ _ => true
  | .pll _ _ _ _ _, .pll _ _ _ _ _ _ => true
  | .mux _ _ _, .mux _ _ _ _ => true
  | .div _ _ _ _ _, .div _ _ _ _ _ _ _ _ _ => true
  | .fc _ _, .fc _ _ => true
  | _, _ => false

theorem runOp_start {o : Op} {s : State} (h : s.step = 0#8) : runOp o s = startOp o s := by
  cases o <;> simp [runOp, startOp, runHold, runRelease, runOsc, runPll, runMux, runDiv, runFc, h]

theorem runOp_later {o : Op} {s : State} (h : s.step ≠ 0#8) :
    runOp o s = if o.sameKind s.work then workStep s.work s.step.toNat s else .stray := by
  cases o <;> cases hw : s.work <;>
    simp [runOp, workStep, runHold, runRelease, runOsc, runPll, runMux, runDiv, runFc, h, hw, Op.sameKind]

/-! ### What a passed validation has checked -/

/-- `Accepted s o w`: the validation of operation `o` passes in state `s` and keeps `w`. -/
inductive Accepted (s : State) : Op → Work → Prop where
  | hold {set} (inSet : set &&& ~~~s.params.periphAll = 0#32) : Accepted s (.hold set) (.hold set)
  | release {set} (inSet : set &&& ~~~s.params.periphAll = 0#32) (deps : set &&& s.unreleasable = 0#32) :
      Accepted s (.release set) (.release set)
  | osc {f} (off : s.osc.enable = false) (low : s.params.oscMinHz ≤ f.toNat) (high : f.toNat ≤ s.params.oscMaxHz)
      (fits : startupDelay f.toNat ≤ 0xFFFF) :
      Accepted s (.osc f) (.osc f (BitVec.ofNat 16 (startupDelay f.toNat)))
  | pll {p refdiv pd1 pd2 targetVco} (ok : s.pllRejection p refdiv pd1 pd2 targetVco = none) :
      Accepted s (.pll p refdiv pd1 pd2 targetVco)
        (.pll p refdiv pd1 pd2 (BitVec.ofNat 9 (solveFbdiv s.oscFreq refdiv targetVco))
          (BitVec.ofNat 32 (solveVcoHz s.oscFreq refdiv targetVco)))
  | mux {dom d main auxsrc} (isDom : Dom.ofIndex dom.toNat = some d) (two : d.twoStage = true)
      (legal : legalTwoStageSource main auxsrc = true) (ready : s.twoStageReadyRejection d main auxsrc = none) :
      Accepted s (.mux dom main auxsrc) (.mux d main auxsrc false)
  | div {dom d main auxsrc src dst} (isDom : Dom.ofIndex dom.toNat = some d)
      (legal : divOperandRejection d main auxsrc = none) (divisor : divisorRejection src dst = none)
      (ready : s.divReadyRejection d main auxsrc = none) :
      Accepted s (.div dom main auxsrc src dst)
        (.div d main auxsrc src (BitVec.ofNat 32 (divisorOf src dst.toNat)) (s.dom d).div false 0 0)
  | fc {src refKhz} (low : src ≠ 0#8) (high : src.toNat ≤ 10)
      (window : windowOf refKhz s.params.fcIntervalFixed ≠ 0) : Accepted s (.fc src refKhz) (.fc src refKhz)

/-- The first micro-operation rejects, or passes and keeps what it has checked: nothing else. -/
theorem startOp_cases (o : Op) (s : State) :
    (∃ r, startOp o s = .reject r) ∨
    (∃ w, Accepted s o w ∧ startOp o s = .cont ((s.keep w).goto 1#8)) := by
  cases o with
  | hold set =>
    simp only [startOp, startHold]
    split
    · exact .inl ⟨_, rfl⟩
    case isFalse h => exact .inr ⟨_, .hold (by simpa using h), rfl⟩
  | release set =>
    simp only [startOp, startRelease]
    split
    · exact .inl ⟨_, rfl⟩
    split
    · exact .inl ⟨_, rfl⟩
    case isFalse h h' => exact .inr ⟨_, .release (by simpa using h) (by simpa using h'), rfl⟩
  | osc f =>
    simp only [startOp, startOsc]
    split
    · exact .inl ⟨_, rfl⟩
    split
    · exact .inl ⟨_, rfl⟩
    split
    · exact .inl ⟨_, rfl⟩
    case isFalse h h' h'' =>
      exact .inr ⟨_, .osc (by simpa using h) (by omega) (by omega) (by omega), rfl⟩
  | pll p refdiv pd1 pd2 targetVco =>
    simp only [startOp, startPll]
    split
    · exact .inl ⟨_, rfl⟩
    case h_2 h => exact .inr ⟨_, .pll h, rfl⟩
  | mux dom main auxsrc =>
    simp only [startOp, startMux, muxDomain]
    cases hd : Dom.ofIndex dom.toNat with
    | none => exact .inl ⟨_, rfl⟩
    | some d =>
      cases ht : d.twoStage with
      | false => simp [Option.filter, ht]
      | true =>
        cases hl : legalTwoStageSource main auxsrc with
        | false => simp [Option.filter, ht, twoStageOperandRejection, hl]
        | true =>
          cases hr : s.twoStageReadyRejection d main auxsrc with
          | some r => simp [Option.filter, ht, twoStageOperandRejection, hl, hr]
          | none =>
            refine .inr ⟨_, .mux hd ht hl hr, ?_⟩
            simp [Option.filter, ht, twoStageOperandRejection, hl, hr]
  | div dom main auxsrc src dst =>
    simp only [startOp, startDiv]
    cases hd : Dom.ofIndex dom.toNat with
    | none => exact .inl ⟨_, rfl⟩
    | some d =>
      cases hl : divOperandRejection d main auxsrc with
      | some r => simp [hl]
      | none =>
        cases hv : divisorRejection src dst with
        | some r => simp [hl]
        | none =>
          cases hr : s.divReadyRejection d main auxsrc with
          | some r => simp [hl, hr]
          | none => exact .inr ⟨_, .div hd hl hv hr, by simp [hl, hr]⟩
  | fc src refKhz =>
    simp only [startOp, startFc]
    split
    · exact .inl ⟨_, rfl⟩
    split
    · exact .inl ⟨_, rfl⟩
    case isFalse h h' =>
      exact .inr ⟨_, .fc (fun e => h (.inl e)) (by omega) h', rfl⟩

/-! ### Every later micro-operation -/

/-- The Wait at micro-operation `k` of the operation whose hidden state is `w`: its id, its register, its predicate
and the micro-operation after it. -/
def waitAt (w : Work) (k : Nat) : Option (WaitId × Reg × (Word → Bool) × BitVec 8) :=
  match w, k with
  | .release set, 2 => some (.resetDone, .rstDone, fun v => v &&& set == set, 3#8)
  | .osc _ _, 4 => some (.oscStable, .oscStatus, fun v => v.getLsbD 31, 5#8)
  | .pll p _ _ _ _ _, 6 => some (.pllLock, .pllCs p, fun v => v.getLsbD 31, 7#8)
  | .mux d _ _ stepped, 2 =>
    if stepped then some (.muxSelected, .clkSelected d, fun v => v == selectedWord .reference, 3#8) else none
  | .mux d main _ _, 5 => some (.muxSelected, .clkSelected d, fun v => v == selectedWord main, 6#8)
  | .div d _ _ _ _ _ stepped _ _, 3 =>
    if d.twoStage && stepped then some (.muxSelected, .clkSelected d, fun v => v == selectedWord .reference, 4#8)
    else none
  | .div d main _ _ _ _ _ _ _, 6 =>
    if d.twoStage then some (.muxSelected, .clkSelected d, fun v => v == selectedWord main, 7#8) else none
  | .fc _ _, 1 => some (.fcIdle, .fcStatus, fun v => !v.getLsbD 0, 2#8)
  | .fc _ _, 7 => some (.fcDone, .fcStatus, fun v => v.getLsbD 1, 8#8)
  | _, _ => none

section
variable {k : Nat} {id : WaitId} {r : Reg} {pred : Word → Bool} {next : BitVec 8}

theorem waitAt_release {set : Word} (h : waitAt (.release set) k = some (id, r, pred, next)) :
    k = 2 ∧ id = .resetDone ∧ r = .rstDone ∧ (fun v => v &&& set == set) = pred ∧ next = 3#8 := by
  unfold waitAt at h; split at h <;> simp_all

theorem waitAt_osc {f : Word} {delay : BitVec 16} (h : waitAt (.osc f delay) k = some (id, r, pred, next)) :
    k = 4 ∧ id = .oscStable ∧ r = .oscStatus ∧ (fun v : Word => v.getLsbD 31) = pred ∧ next = 5#8 := by
  unfold waitAt at h; split at h <;> simp_all

theorem waitAt_pll {p : PllId} {refdiv : BitVec 6} {pd1 pd2 : BitVec 3} {fbdiv : BitVec 9} {vcoHz : Word}
    (h : waitAt (.pll p refdiv pd1 pd2 fbdiv vcoHz) k = some (id, r, pred, next)) :
    k = 6 ∧ id = .pllLock ∧ r = .pllCs p ∧ (fun v : Word => v.getLsbD 31) = pred ∧ next = 7#8 := by
  unfold waitAt at h; split at h <;> simp_all

theorem waitAt_mux {d : Dom} {main : Path} {auxsrc : BitVec 3} {stepped : Bool}
    (h : waitAt (.mux d main auxsrc stepped) k = some (id, r, pred, next)) :
    id = .muxSelected ∧ r = .clkSelected d ∧
      ((k = 2 ∧ stepped = true ∧ (fun v => v == selectedWord .reference) = pred ∧ next = 3#8) ∨
        (k = 5 ∧ (fun v => v == selectedWord main) = pred ∧ next = 6#8)) := by
  unfold waitAt at h
  split at h
  all_goals first
    | cases h; done
    | (rename_i e; cases e; split at h <;> simp_all)
    | (rename_i e; cases e; simp_all)
    | simp_all

theorem waitAt_div {d : Dom} {main : Path} {auxsrc : BitVec 3} {src : Nat} {divisor old : Word} {stepped : Bool}
    {settle left : Nat}
    (h : waitAt (.div d main auxsrc src divisor old stepped settle left) k = some (id, r, pred, next)) :
    d.twoStage = true ∧ id = .muxSelected ∧ r = .clkSelected d ∧
      ((k = 3 ∧ stepped = true ∧ (fun v => v == selectedWord .reference) = pred ∧ next = 4#8) ∨
        (k = 6 ∧ (fun v => v == selectedWord main) = pred ∧ next = 7#8)) := by
  unfold waitAt at h
  split at h
  all_goals first
    | cases h; done
    | (rename_i e; cases e; split at h <;> simp_all)
    | simp_all

theorem waitAt_fc {src : BitVec 8} {refKhz : Word} (h : waitAt (.fc src refKhz) k = some (id, r, pred, next)) :
    (k = 1 ∧ id = .fcIdle ∧ r = .fcStatus ∧ (fun v : Word => !v.getLsbD 0) = pred ∧ next = 2#8) ∨
    (k = 7 ∧ id = .fcDone ∧ r = .fcStatus ∧ (fun v : Word => v.getLsbD 1) = pred ∧ next = 8#8) := by
  unfold waitAt at h; split at h <;> simp_all

/-- A satisfied Wait goes on to the next micro-operation. -/
theorem waitAt_next {w : Work} (h : waitAt w k = some (id, r, pred, next)) : next = BitVec.ofNat 8 (k + 1) := by
  cases w with
  | idle => cases h
  | hold set => cases h
  | release set => obtain ⟨rfl, _, _, _, rfl⟩ := waitAt_release h; rfl
  | osc f delay => obtain ⟨rfl, _, _, _, rfl⟩ := waitAt_osc h; rfl
  | pll p refdiv pd1 pd2 fbdiv vcoHz => obtain ⟨rfl, _, _, _, rfl⟩ := waitAt_pll h; rfl
  | mux d main auxsrc stepped =>
    obtain ⟨_, _, ⟨rfl, _, _, rfl⟩ | ⟨rfl, _, rfl⟩⟩ := waitAt_mux h <;> rfl
  | div d main auxsrc src divisor old stepped settle left =>
    obtain ⟨_, _, _, ⟨rfl, _, _, rfl⟩ | ⟨rfl, _, rfl⟩⟩ := waitAt_div h <;> rfl
  | fc src refKhz =>
    obtain ⟨rfl, _, _, _, rfl⟩ | ⟨rfl, _, _, _, rfl⟩ := waitAt_fc h <;> rfl

end

/-- `Ran s w k m`: micro-operation `k` of the operation whose hidden state is `w` does `m` in state `s`. -/
inductive Ran (s : State) : Work → Nat → Micro → Prop where
  | stray {w k} : Ran s w k .stray
  | waited {w k id r pred next} (at_ : waitAt w k = some (id, r, pred, next)) (holds : pred (s.regRead r) = true) :
      Ran s w k (.cont (s.waited id r next))
  | polled {w k id r pred next} (at_ : waitAt w k = some (id, r, pred, next)) (fails : pred (s.regRead r) = false)
      (more : s.waitLimit = 0#32 ∨ nextPoll s.pollcnt < s.waitLimit) : Ran s w k (.cont s.polled)
  | timeout {w k id r pred next} (at_ : waitAt w k = some (id, r, pred, next)) (fails : pred (s.regRead r) = false)
      (limit : s.waitLimit ≠ 0#32) (spent : s.waitLimit ≤ nextPoll s.pollcnt) :
      Ran s w k (.timeout id (s.regRead r))
  | hold1 {set} :
      Ran s (.hold set) 1 (.cont ((s.regWrite .rstCtrl (s.regRead .rstCtrl ||| set)).goto 2#8))
  | hold2 {set} : Ran s (.hold set) 2 (.finish s [(4, s.regRead .rstCtrl)])
  | release1 {set} :
      Ran s (.release set) 1 (.cont ((s.regWrite .rstCtrl (s.regRead .rstCtrl &&& ~~~set)).goto 2#8))
  | release3 {set} : Ran s (.release set) 3 (.finish s [(4, s.regRead .rstDone)])
  | osc1 {f delay} : Ran s (.osc f delay) 1 (.cont ((s.regWrite .oscStatus 0x01000000#32).goto 2#8))
  | osc2 {f delay} : Ran s (.osc f delay) 2 (.cont ((s.regWrite .oscCtrl 0x00000100#32).goto 3#8))
  | osc3 {f delay} :
      Ran s (.osc f delay) 3
        (.cont (((s.regWrite .oscStartup (delay.setWidth 32)).latchOscFreq .beforeWait f).goto 4#8))
  | osc5 {f delay} :
      Ran s (.osc f delay) 5 (.finish (s.latchOscFreq .atComplete f) [(4, s.regRead .oscStatus), (5, delay.setWidth 32)])
  | pll1 {p refdiv pd1 pd2 fbdiv vcoHz} :
      Ran s (.pll p refdiv pd1 pd2 fbdiv vcoHz) 1 (.cont ((s.regWrite (.pllPwr p) 0b111#32).goto 2#8))
  | pll2 {p refdiv pd1 pd2 fbdiv vcoHz} :
      Ran s (.pll p refdiv pd1 pd2 fbdiv vcoHz) 2 (.cont ((s.regWrite (.pllFbdiv p) 0#32).goto 3#8))
  | pll3 {p refdiv pd1 pd2 fbdiv vcoHz} :
      Ran s (.pll p refdiv pd1 pd2 fbdiv vcoHz) 3 (.cont ((s.regWrite (.pllCs p) (refdiv.setWidth 32)).goto 4#8))
  | pll4 {p refdiv pd1 pd2 fbdiv vcoHz} :
      Ran s (.pll p refdiv pd1 pd2 fbdiv vcoHz) 4
        (.cont ((s.regWrite (.pllFbdiv p) (fbdiv.setWidth 32)).goto 5#8))
  | pll5 {p refdiv pd1 pd2 fbdiv vcoHz} :
      Ran s (.pll p refdiv pd1 pd2 fbdiv vcoHz) 5 (.cont ((s.regWrite (.pllPwr p) 0b100#32).goto 6#8))
  | pll7 {p refdiv pd1 pd2 fbdiv vcoHz} :
      Ran s (.pll p refdiv pd1 pd2 fbdiv vcoHz) 7
        (.cont ((s.regWrite (.pllPrim p) (0#25 ++ pd2 ++ 0#1 ++ pd1)).goto 8#8))
  | pll8 {p refdiv pd1 pd2 fbdiv vcoHz} :
      Ran s (.pll p refdiv pd1 pd2 fbdiv vcoHz) 8 (.cont ((s.regWrite (.pllPwr p) 0b000#32).goto 9#8))
  | pll9 {p refdiv pd1 pd2 fbdiv vcoHz} :
      Ran s (.pll p refdiv pd1 pd2 fbdiv vcoHz) 9
        (.finish (s.describePll p vcoHz (pllOutHz vcoHz pd1 pd2))
          [(4, fbdiv.setWidth 32), (5, vcoHz), (6, pllOutHz vcoHz pd1 pd2), (7, s.regRead (.pllCs p))])
  | mux1Write {d main auxsrc stepped} (back : s.mustStepBack d main = true) :
      Ran s (.mux d main auxsrc stepped) 1
        (.cont (((s.writeMain d .reference).keep (.mux d main auxsrc true)).goto 2#8))
  | mux1Pass {d main auxsrc stepped} (stay : s.mustStepBack d main = false) :
      Ran s (.mux d main auxsrc stepped) 1 (.cont (s.goto 2#8))
  | mux2Pass {d main auxsrc} : Ran s (.mux d main auxsrc false) 2 (.cont (s.goto 3#8))
  | mux3Write {d auxsrc stepped} :
      Ran s (.mux d .auxiliary auxsrc stepped) 3 (.cont ((s.writeAuxsrc d auxsrc).goto 4#8))
  | mux3Pass {d auxsrc stepped} : Ran s (.mux d .reference auxsrc stepped) 3 (.cont (s.goto 4#8))
  | mux4 {d main auxsrc stepped} :
      Ran s (.mux d main auxsrc stepped) 4 (.cont ((s.writeMain d main).goto 5#8))
  | mux6 {d main auxsrc stepped} :
      Ran s (.mux d main auxsrc stepped) 6
        (.finish s [(4, s.regRead (.clkSelected d)), (5, s.regRead (.clkCtrl d))])
  | div1Write {d main auxsrc src div old stepped settle left} (larger : old < div) :
      Ran s (.div d main auxsrc src div old stepped settle left) 1
        (.cont ((s.regWrite (.clkDiv d) div).goto 2#8))
  | div1Pass {d main auxsrc src div old stepped settle left} (smaller : ¬ old < div) :
      Ran s (.div d main auxsrc src div old stepped settle left) 1 (.cont (s.goto 2#8))
  | div2Write {d main auxsrc src div old stepped settle left} (two : d.twoStage = true)
      (back : s.mustStepBack d main = true) :
      Ran s (.div d main auxsrc src div old stepped settle left) 2
        (.cont (((s.writeMain d .reference).keep (.div d main auxsrc src div old true settle left)).goto 3#8))
  | div2Pass {d main auxsrc src div old stepped settle left} (two : d.twoStage = true)
      (stay : s.mustStepBack d main = false) :
      Ran s (.div d main auxsrc src div old stepped settle left) 2 (.cont (s.goto 3#8))
  | div2Gated {d main auxsrc src div old stepped settle left} (gated : d.twoStage = false) :
      Ran s (.div d main auxsrc src div old stepped settle left) 2
        (.cont (((s.writeEnable d false).keep
          (.div d main auxsrc src div old stepped (s.settleLength d) (s.settleLength d))).goto 3#8))
  | div3Pass {d main auxsrc src div old settle left} (two : d.twoStage = true) :
      Ran s (.div d main auxsrc src div old false settle left) 3 (.cont (s.goto 4#8))
  | div3Settled {d main auxsrc src div old stepped settle left} (gated : d.twoStage = false) (last : left ≤ 1) :
      Ran s (.div d main auxsrc src div old stepped settle left) 3
        (.cont ((s.traced (.settle settle)).goto 4#8))
  | div3Settling {d main auxsrc src div old stepped settle left} (gated : d.twoStage = false) (more : 1 < left) :
      Ran s (.div d main auxsrc src div old stepped settle left) 3
        (.cont (s.keep (.div d main auxsrc src div old stepped settle (left - 1))))
  | div4Write {d auxsrc src div old stepped settle left} (two : d.twoStage = true) :
      Ran s (.div d .auxiliary auxsrc src div old stepped settle left) 4
        (.cont ((s.writeAuxsrc d auxsrc).goto 5#8))
  | div4Pass {d auxsrc src div old stepped settle left} (two : d.twoStage = true) :
      Ran s (.div d .reference auxsrc src div old stepped settle left) 4 (.cont (s.goto 5#8))
  | div4Gated {d main auxsrc src div old stepped settle left} (gated : d.twoStage = false) :
      Ran s (.div d main auxsrc src div old stepped settle left) 4
        (.cont ((s.writeAuxsrc d auxsrc).goto 5#8))
  | div5Main {d main auxsrc src div old stepped settle left} (two : d.twoStage = true) :
      Ran s (.div d main auxsrc src div old stepped settle left) 5 (.cont ((s.writeMain d main).goto 6#8))
  | div5Gated {d main auxsrc src div old stepped settle left} (gated : d.twoStage = false) :
      Ran s (.div d main auxsrc src div old stepped settle left) 5 (.cont ((s.writeEnable d true).goto 6#8))
  | div6Pass {d main auxsrc src div old stepped settle left} (gated : d.twoStage = false) :
      Ran s (.div d main auxsrc src div old stepped settle left) 6 (.cont (s.goto 7#8))
  | div7 {d main auxsrc src div old stepped settle left} :
      Ran s (.div d main auxsrc src div old stepped settle left) 7
        (.cont ((s.regWrite (.clkDiv d) div).goto 8#8))
  | div8 {d main auxsrc src div old stepped settle left} :
      Ran s (.div d main auxsrc src div old stepped settle left) 8
        (.finish (s.describeDom d (domHzOf src div))
          [(4, div), (5, BitVec.ofNat 32 (achievedHz src div))])
  | fc2 {src refKhz} : Ran s (.fc src refKhz) 2 (.cont ((s.regWrite .fcRefKhz refKhz).goto 3#8))
  | fc3 {src refKhz} :
      Ran s (.fc src refKhz) 3
        (.cont ((s.regWrite .fcInterval (s.params.fcIntervalFixed.setWidth 32)).goto 4#8))
  | fc4 {src refKhz} : Ran s (.fc src refKhz) 4 (.cont ((s.regWrite .fcMinKhz 0#32).goto 5#8))
  | fc5 {src refKhz} : Ran s (.fc src refKhz) 5 (.cont ((s.regWrite .fcMaxKhz 0xFFFFFFFF#32).goto 6#8))
  | fc6 {src refKhz} : Ran s (.fc src refKhz) 6 (.cont ((s.regWrite .fcSrc (src.setWidth 32)).goto 7#8))
  | fc8 {src refKhz} :
      Ran s (.fc src refKhz) 8
        (.finish { s with fc := s.fc.forget } [(4, s.regRead .fcResult), (5, s.regRead .fcStatus)])

theorem Ran.ofWait {s : State} {w : Work} {k : Nat} {id : WaitId} {r : Reg} {pred : Word → Bool} {next : BitVec 8}
    (h : waitAt w k = some (id, r, pred, next)) : Ran s w k (s.wait id r pred next) := by
  rcases s.wait_cases id r pred next with ⟨hp, e⟩ | ⟨hp, hl, hs, e⟩ | ⟨hp, hm, e⟩ <;> rw [e]
  · exact .waited h hp
  · exact .timeout h hp hl hs
  · exact .polled h hp hm

/-- Every later micro-operation is one of those of `Ran`. -/
theorem workStep_ran (s : State) (w : Work) (k : Nat) : Ran s w k (workStep w k s) := by
  cases w with
  | idle => exact .stray
  | hold set => simp only [workStep, holdStep]; split <;> constructor
  | release set =>
    simp only [workStep, releaseStep]
    split
    · exact .release1
    · exact .ofWait rfl
    · exact .release3
    · exact .stray
  | osc f delay =>
    simp only [workStep, oscStep]
    split
    case h_4 => exact .ofWait rfl
    all_goals constructor
  | pll p refdiv pd1 pd2 fbdiv vcoHz =>
    simp only [workStep, pllStep]
    split
    case h_6 => exact .ofWait rfl
    all_goals constructor
  | mux d main auxsrc stepped =>
    simp only [workStep, muxStep, muxM1, muxM2, muxM3, muxM4, muxM5]
    split
    · split
      case isTrue h => exact .mux1Write h
      case isFalse h => exact .mux1Pass (by simpa using h)
    · cases stepped
      · exact .mux2Pass
      · rw [if_pos rfl]
        exact .ofWait rfl
    · cases main
      · exact .mux3Pass
      · exact .mux3Write
    · exact .mux4
    · exact .ofWait rfl
    · exact .mux6
    · exact .stray
  | div d main auxsrc src div old stepped settle left =>
    simp only [workStep, divStep, muxM1, muxM2, muxM3, muxM4, muxM5, gatedG1, gatedG2, gatedG3, gatedG4]
    split
    · split
      case isTrue h => exact .div1Write h
      case isFalse h => exact .div1Pass h
    · cases ht : d.twoStage with
      | false => exact .div2Gated ht
      | true =>
        rw [if_pos rfl]
        split
        case isTrue h => exact .div2Write ht h
        case isFalse h => exact .div2Pass ht (by simpa using h)
    · cases ht : d.twoStage with
      | false =>
        rw [if_neg (by simp)]
        split
        case isTrue h => exact .div3Settled ht h
        case isFalse h => exact .div3Settling ht (by omega)
      | true =>
        rw [if_pos rfl]
        cases stepped
        · exact .div3Pass ht
        · rw [if_pos rfl]
          exact .ofWait (by simp [waitAt, ht])
    · cases ht : d.twoStage with
      | false => exact .div4Gated ht
      | true =>
        cases main
        · exact .div4Pass ht
        · exact .div4Write ht
    · cases ht : d.twoStage with
      | false => exact .div5Gated ht
      | true => exact .div5Main ht
    · cases ht : d.twoStage with
      | false => exact .div6Pass ht
      | true =>
        rw [if_pos rfl]
        exact .ofWait (by simp [waitAt, ht])
    · exact .div7
    · exact .div8
    · exact .stray
  | fc src refKhz =>
    simp only [workStep, fcStep]
    split
    · exact .ofWait rfl
    case h_7 => exact .ofWait rfl
    all_goals constructor

/-- Everything one micro-operation of an operation can do. -/
theorem runOp_cases (o : Op) (s : State) :
    (s.step = 0#8 ∧ ∃ r, runOp o s = .reject r) ∨
    (s.step = 0#8 ∧ ∃ w, Accepted s o w ∧ runOp o s = .cont ((s.keep w).goto 1#8)) ∨
    (s.step ≠ 0#8 ∧ o.sameKind s.work = true ∧ Ran s s.work s.step.toNat (runOp o s)) ∨
    (s.step ≠ 0#8 ∧ o.sameKind s.work = false ∧ runOp o s = .stray) := by
  by_cases h : s.step = 0#8
  · rw [runOp_start h]
    rcases startOp_cases o s with hr | ha
    · exact .inl ⟨h, hr⟩
    · exact .inr (.inl ⟨h, ha⟩)
  · rw [runOp_later h]
    cases hk : o.sameKind s.work
    · exact .inr (.inr (.inr ⟨h, rfl, rfl⟩))
    · exact .inr (.inr (.inl ⟨h, rfl, workStep_ran s _ _⟩))

end Sys2Proof.Machine
end

