-- ==== Sys2Proof/Laws/Exec.lean ====
section
/-! SUPPORT. What one step can do, said once: `Executed` lists every next state `exec` can answer, `Moved` every next
state of a step. An invariant's proof is a case analysis of the two. -/

namespace Sys2Proof.Machine

/-- The command is BRINGUP. -/
def isBringup : Instr → Bool
  | .nop => false
  | .rstHold => false
  | .rstRelease => false
  | .oscStart => false
  | .pllCfg _ _ _ _ => false
  | .muxSwitch _ _ _ => false
  | .divApply _ _ _ => false
  | .fcMeasure _ => false
  | .bringup _ => true

/-- ERR.UNIT of a command of its own (10_state.md R14, 60_exceptions.md R201). -/
def unitOf : Instr → BitVec 4
  | .nop => 0#4
  | .rstHold => 0#4
  | .rstRelease => 0#4
  | .oscStart => 0#4
  | .pllCfg p _ _ _ => 0#3 ++ p.bit
  | .muxSwitch dom _ _ => 0#1 ++ dom
  | .divApply dom _ _ => 0#1 ++ dom
  | .fcMeasure _ => 0#4
  | .bringup _ => 0#4

/-- The state gate is due: the command is at its first micro-operation (30_encoding.md R86, R87). -/
def State.atGate (s : State) (i : Instr) : Bool :=
  if isBringup i then s.sub == 0#8 && s.step == 0#8 else s.step == 0#8

/-- The state gate, where it is due, lets the command pass. -/
def State.gatePassed (s : State) (i : Instr) : Prop :=
  s.atGate i = true → s.fsm = .powerOnReset ∨ (s.fsm = .ready ∧ acceptedInReady i = true)

/-- Every next state `exec i` can answer. -/
inductive Executed (s : State) : Instr → State → Prop where
  | nop (start : s.step = 0#8) (gate : s.gatePassed .nop) : Executed s .nop s.complete
  | locked {i} (due : s.atGate i = true) (ready : s.fsm = .ready) (refused : acceptedInReady i = false) :
      Executed s i (s.reject ⟨.locked, 0#28 ++ s.fsm.code⟩ (opcode i) (unitOf i))
  | cont {i o t} (op : s.opOf i = some o) (gate : s.gatePassed i) (run : runOp o s = .cont t) : Executed s i t
  | rejected {i o r} (own : isBringup i = false) (op : s.opOf i = some o) (gate : s.gatePassed i)
      (start : s.step = 0#8) (run : runOp o s = .reject r) :
      Executed s i (s.reject r (opcode i) (unitOf i))
  | finished {i o u rs} (own : isBringup i = false) (op : s.opOf i = some o) (later : s.step ≠ 0#8)
      (kind : o.sameKind s.work = true) (ran : Ran s s.work s.step.toNat (.finish u rs)) :
      Executed s i (u.setResults rs).complete
  | timedOut {i o w v} (own : isBringup i = false) (op : s.opOf i = some o) (later : s.step ≠ 0#8)
      (kind : o.sameKind s.work = true) (ran : Ran s s.work s.step.toNat (.timeout w v)) :
      Executed s i (s.fatal ⟨w.cause, v⟩ 0#4 (opcode i) (unitOf i))
  | subFinished {verify o u rs} (op : s.planOp verify s.sub.toNat = some o) (later : s.step ≠ 0#8)
      (kind : o.sameKind s.work = true) (ran : Ran s s.work s.step.toNat (.finish u rs)) :
      Executed s (.bringup verify) (u.nextSub s.sub.toNat)
  | subRejected {verify o r} (op : s.planOp verify s.sub.toNat = some o) (gate : s.gatePassed (.bringup verify))
      (start : s.step = 0#8) (run : runOp o s = .reject r) :
      Executed s (.bringup verify) (s.fatal r s.stage o.opcode o.unit)
  | subTimedOut {verify o w v} (op : s.planOp verify s.sub.toNat = some o) (later : s.step ≠ 0#8)
      (kind : o.sameKind s.work = true) (ran : Ran s s.work s.step.toNat (.timeout w v)) :
      Executed s (.bringup verify) (s.fatal ⟨w.cause, v⟩ s.stage o.opcode o.unit)
  | bringupEnd (atEnd : s.sub = 12#8) (start : s.step = 0#8) : Executed s (.bringup false) s.bringupEnd

/-- A command of its own is its gate and its micro-operation. -/
theorem exec_command {i : Instr} (h : isBringup i = false) (s : State) :
    exec i s = s.command (acceptedInReady i) (opcode i) (unitOf i)
      (match s.opOf i with
        | some o => runOp o s
        | none => if s.step = 0#8 then .finish s [] else .stray) := by
  cases i <;> first | rfl | cases h

/-- What a micro-operation that ends or stops an operation is. -/
theorem runOp_finish {o : Op} {s u : State} {rs : List (Fin 8 × Word)} (h : runOp o s = .finish u rs) :
    s.step ≠ 0#8 ∧ o.sameKind s.work = true ∧ Ran s s.work s.step.toNat (.finish u rs) := by
  rcases runOp_cases o s with ⟨_, _, e⟩ | ⟨_, _, _, e⟩ | ⟨hs, hk, hr⟩ | ⟨_, _, e⟩
  · rw [e] at h; cases h
  · rw [e] at h; cases h
  · exact ⟨hs, hk, h ▸ hr⟩
  · rw [e] at h; cases h

theorem runOp_timeout {o : Op} {s : State} {w : WaitId} {v : Word} (h : runOp o s = .timeout w v) :
    s.step ≠ 0#8 ∧ o.sameKind s.work = true ∧ Ran s s.work s.step.toNat (.timeout w v) := by
  rcases runOp_cases o s with ⟨_, _, e⟩ | ⟨_, _, _, e⟩ | ⟨hs, hk, hr⟩ | ⟨_, _, e⟩
  · rw [e] at h; cases h
  · rw [e] at h; cases h
  · exact ⟨hs, hk, h ▸ hr⟩
  · rw [e] at h; cases h

theorem Ran.noReject {s : State} {w : Work} {k : Nat} {r : Rejection} (h : Ran s w k (.reject r)) : False := by
  cases h

theorem runOp_reject {o : Op} {s : State} {r : Rejection} (h : runOp o s = .reject r) : s.step = 0#8 := by
  rcases runOp_cases o s with ⟨hs, _⟩ | ⟨hs, _⟩ | ⟨_, _, hr⟩ | ⟨_, _, e⟩
  · exact hs
  · exact hs
  · exact (Ran.noReject (h ▸ hr)).elim
  · rw [e] at h; cases h

/-- The inversion of `exec` for a command of its own. -/
theorem exec_command_inv {i : Instr} {s t : State} (hi : isBringup i = false) (h : exec i s = .next t) :
    Executed s i t := by
  rw [exec_command hi] at h
  have key : ∀ m, (m = match s.opOf i with
        | some o => runOp o s
        | none => if s.step = 0#8 then .finish s [] else .stray) →
      s.gatePassed i → s.commandStep (opcode i) (unitOf i) m = .next t → Executed s i t := by
    intro m hm hg hc
    cases ho : s.opOf i with
    | none =>
      have hn : i = .nop := by
        cases i <;> first | rfl | (simp [State.opOf] at ho; done) | cases hi
      subst hn
      rw [ho] at hm
      by_cases hs : s.step = 0#8
      · simp only [hs, if_true] at hm
        subst hm
        simp only [State.commandStep, State.setResults] at hc
        cases hc
        exact .nop hs hg
      · simp only [hs, if_false] at hm
        subst hm
        cases hc
    | some o =>
      rw [ho] at hm
      rcases State.commandStep_cases _ _ _ _ _ hc with e | ⟨u, rs, e, rfl⟩ | ⟨r, e, rfl⟩ | ⟨w, v, e, rfl⟩ <;>
        rw [hm] at e
      · exact .cont ho hg e
      · exact .finished hi ho (runOp_finish e).1 (runOp_finish e).2.1 (runOp_finish e).2.2
      · exact .rejected hi ho hg (runOp_reject e) e
      · exact .timedOut hi ho (runOp_timeout e).1 (runOp_timeout e).2.1 (runOp_timeout e).2.2
  have hgate : s.atGate i = (s.step == 0#8) := by simp [State.atGate, hi]
  generalize hm : (match s.opOf i with
        | some o => runOp o s
        | none => if s.step = 0#8 then .finish s [] else .stray) = m at h
  unfold State.command at h
  split at h
  case isTrue hs =>
    rcases State.gate_cases _ _ _ _ _ _ h with ⟨hr, hf⟩ | ⟨hf, ha, rfl⟩
    · exact key _ hm.symm (fun _ => hf) hr
    · exact .locked (by simp [hgate, hs]) hf ha
  case isFalse hs => exact key _ hm.symm (fun hg => absurd (by simpa [hgate] using hg) hs) h

/-- The inversion of `exec` for BRINGUP. -/
theorem exec_bringup_inv {verify : Bool} {s t : State} (h : exec (.bringup verify) s = .next t) :
    Executed s (.bringup verify) t := by
  have key : s.gatePassed (.bringup verify) → s.bringupAt verify = .next t → Executed s (.bringup verify) t := by
    intro hg hb
    unfold State.bringupAt at hb
    split at hb
    case h_1 o ho =>
      rcases State.bringupStep_cases _ _ _ _ _ hb with e | ⟨u, rs, e, rfl⟩ | ⟨r, e, rfl⟩ | ⟨w, v, e, rfl⟩
      · exact .cont ho hg e
      · exact .subFinished ho (runOp_finish e).1 (runOp_finish e).2.1 (runOp_finish e).2.2
      · exact .subRejected ho hg (runOp_reject e) e
      · exact .subTimedOut ho (runOp_timeout e).1 (runOp_timeout e).2.1 (runOp_timeout e).2.2
    case h_2 ho =>
      split at hb
      case isTrue hc =>
        obtain ⟨rfl, h12, h0⟩ := hc
        cases hb
        exact .bringupEnd h12 h0
      case isFalse => cases hb
  have hgate : s.atGate (.bringup verify) = (s.sub == 0#8 && s.step == 0#8) := rfl
  change execBringup verify s = _ at h
  unfold execBringup at h
  split at h
  case isTrue hs =>
    rcases State.gate_cases _ _ _ _ _ _ h with ⟨hr, hf⟩ | ⟨hf, _, rfl⟩
    · exact key (fun _ => hf) hr
    · exact .locked (by simp [hgate, hs.1, hs.2]) hf rfl
  case isFalse hs => exact key (fun hg => absurd (by simpa [hgate] using hg) hs) h

/-- Every next state `exec` answers is one of those of `Executed`. -/
theorem exec_inv {i : Instr} {s t : State} (h : exec i s = .next t) : Executed s i t := by
  cases hi : isBringup i
  · exact exec_command_inv hi h
  · cases i <;> first | exact exec_bringup_inv h | cases hi

/-- A property that every ending keeps, and every micro-operation of every operation, is kept by `exec`. -/
theorem Executed.keeps {P : State → Prop} {s t : State} {i : Instr} (h : Executed s i t)
    (start : ∀ o w, s.opOf i = some o → s.step = 0#8 → s.gatePassed i → Accepted s o w →
      P ((s.keep w).goto 1#8))
    (cont : ∀ o u, s.opOf i = some o → s.step ≠ 0#8 → o.sameKind s.work = true →
      Ran s s.work s.step.toNat (.cont u) → P u)
    (finish : ∀ o u rs, s.opOf i = some o → s.step ≠ 0#8 → o.sameKind s.work = true →
      Ran s s.work s.step.toNat (.finish u rs) → P (u.setResults rs).complete)
    (next : ∀ o u rs v, i = .bringup v → s.opOf i = some o → s.step ≠ 0#8 → o.sameKind s.work = true →
      Ran s s.work s.step.toNat (.finish u rs) → P (u.nextSub s.sub.toNat))
    (nop : i = .nop → s.step = 0#8 → P s.complete)
    (reject : ∀ r opc un, s.step = 0#8 → P (s.reject r opc un))
    (fatal : ∀ r g opc un, P (s.fatal r g opc un))
    (ended : s.step = 0#8 → P s.bringupEnd) : P t := by
  cases h with
  | nop h0 hg => exact nop rfl h0
  | locked due ready refused =>
    apply reject
    unfold State.atGate at due
    split at due <;> simp at due
    · exact due.2
    · exact due
  | @cont _ o _ op gate run =>
    rcases runOp_cases o s with ⟨_, _, e⟩ | ⟨hs, w, ha, e⟩ | ⟨hs, hk, hr⟩ | ⟨_, _, e⟩
    · rw [e] at run; cases run
    · rw [e] at run; cases run; exact start o w op hs gate ha
    · rw [run] at hr; exact cont o _ op hs hk hr
    · rw [e] at run; cases run
  | rejected own op gate st run => exact reject _ _ _ st
  | finished own op later kind ran => exact finish _ _ _ op later kind ran
  | timedOut own op later kind ran => exact fatal _ _ _ _
  | subFinished op later kind ran => exact next _ _ _ _ rfl op later kind ran
  | subRejected op gate st run => exact fatal _ _ _ _
  | subTimedOut op later kind ran => exact fatal _ _ _ _
  | bringupEnd h12 h0 => exact ended h0

/-! ### Steps -/

/-- Every next state one move can answer. -/
inductive Moved (s : State) : State → Prop where
  | idle (idle : s.engineActive = false) : Moved s s
  | illegal {e} (busy : s.busy = true) (alive : s.fsm ≠ .failed) (bad : decode s.fetch = .error e) :
      Moved s s.rejectIllegal
  | executed {i t} (busy : s.busy = true) (alive : s.fsm ≠ .failed) (good : decode s.fetch = .ok i)
      (run : Executed s i t) : Moved s t
  | env (e : EnvStep) : Moved s (s.envStep e)
  | host (a : HostAccess) : Moved s (s.hostAccess a)

theorem engineActive_iff (s : State) : s.engineActive = true ↔ s.busy = true ∧ s.fsm ≠ .failed := by
  simp [State.engineActive]

theorem move_inv {s t : State} {m : Move} (h : s.move m = .next t) : Moved s t := by
  cases m with
  | engine =>
    change s.engineStep = _ at h
    unfold State.engineStep at h
    cases ha : s.engineActive with
    | false =>
      simp only [ha] at h
      cases h
      exact .idle ha
    | true =>
      obtain ⟨hb, hf⟩ := (engineActive_iff s).mp ha
      simp only [ha, if_true] at h
      split at h
      case h_1 i hd => exact .executed hb hf hd (exec_inv h)
      case h_2 e hd =>
        cases h
        exact .illegal hb hf hd
  | env e => cases h; exact .env e
  | host a => cases h; exact .host a

/-- A step is one move of the state whose schedule has lost that move. -/
theorem step_inv {s t : State} (h : step s = .next t) : ∃ ms, Moved { s with schedule := ms } t := by
  unfold step State.takeMove at h
  cases hs : s.schedule with
  | nil =>
    rw [hs] at h
    exact ⟨s.schedule, move_inv h⟩
  | cons m rest =>
    rw [hs] at h
    exact ⟨rest, move_inv h⟩

/-- An invariant that does not look at the schedule and that every move keeps is kept by every step. -/
theorem step_keeps {P : State → Prop} (schedule : ∀ s ms, P s → P { s with schedule := ms })
    (moved : ∀ s t, P s → Moved s t → P t) {s t : State} (hs : P s) (h : step s = .next t) : P t := by
  obtain ⟨ms, hm⟩ := step_inv h
  exact moved _ _ (schedule s ms hs) hm

end Sys2Proof.Machine
end

