-- ==== Sys2Proof/Laws/Frame.lean ====
section
/-! SUPPORT. The frame of a micro-operation: which parts of the state a later micro-operation of an operation can
change, by the operation's kind. -/

namespace Sys2Proof.Machine

variable {s u : State} {w : Work} {k : Nat}

/-! ### What no micro-operation that goes on changes -/

theorem Ran.params_eq (r : Ran s w k (.cont u)) : u.params = s.params := by
  cases r <;> simp [State.writeMain, State.writeAuxsrc, State.writeEnable]

theorem Ran.x_eq (r : Ran s w k (.cont u)) : u.x = s.x := by
  cases r <;> simp [State.writeMain, State.writeAuxsrc, State.writeEnable]

theorem Ran.fsm_eq (r : Ran s w k (.cont u)) : u.fsm = s.fsm := by
  cases r <;> simp [State.writeMain, State.writeAuxsrc, State.writeEnable]

theorem Ran.sub_eq (r : Ran s w k (.cont u)) : u.sub = s.sub := by
  cases r <;> simp [State.writeMain, State.writeAuxsrc, State.writeEnable]

theorem Ran.busy_eq (r : Ran s w k (.cont u)) : u.busy = s.busy := by
  cases r <;> simp [State.writeMain, State.writeAuxsrc, State.writeEnable]

theorem Ran.done_eq (r : Ran s w k (.cont u)) : u.done = s.done := by
  cases r <;> simp [State.writeMain, State.writeAuxsrc, State.writeEnable]

theorem Ran.error_eq (r : Ran s w k (.cont u)) : u.error = s.error := by
  cases r <;> simp [State.writeMain, State.writeAuxsrc, State.writeEnable]

theorem Ran.overrun_eq (r : Ran s w k (.cont u)) : u.overrun = s.overrun := by
  cases r <;> simp [State.writeMain, State.writeAuxsrc, State.writeEnable]

theorem Ran.cmd_eq (r : Ran s w k (.cont u)) : u.cmd = s.cmd := by
  cases r <;> simp [State.writeMain, State.writeAuxsrc, State.writeEnable]

theorem Ran.err_eq (r : Ran s w k (.cont u)) : u.err = s.err := by
  cases r <;> simp [State.writeMain, State.writeAuxsrc, State.writeEnable]

theorem Ran.errsnap_eq (r : Ran s w k (.cont u)) : u.errsnap = s.errsnap := by
  cases r <;> simp [State.writeMain, State.writeAuxsrc, State.writeEnable]

theorem Ran.waitLimit_eq (r : Ran s w k (.cont u)) : u.waitLimit = s.waitLimit := by
  cases r <;> simp [State.writeMain, State.writeAuxsrc, State.writeEnable]

theorem Ran.schedule_eq (r : Ran s w k (.cont u)) : u.schedule = s.schedule := by
  cases r <;> simp [State.writeMain, State.writeAuxsrc, State.writeEnable]

theorem Ran.busReply_eq (r : Ran s w k (.cont u)) : u.busReply = s.busReply := by
  cases r <;> simp [State.writeMain, State.writeAuxsrc, State.writeEnable]

/-! ### What only one kind of operation changes -/

theorem Ran.oscFreq_eq (r : Ran s w k (.cont u)) (hw : ∀ f delay, w ≠ .osc f delay) : u.oscFreq = s.oscFreq := by
  cases r <;> first | exact absurd rfl (hw _ _) | rfl

theorem Ran.osc_eq (r : Ran s w k (.cont u)) (hw : ∀ f delay, w ≠ .osc f delay) : u.osc = s.osc := by
  cases r <;> first | exact absurd rfl (hw _ _) | rfl

theorem Ran.rstCtrl_eq (r : Ran s w k (.cont u)) (hh : ∀ set, w ≠ .hold set) (hr : ∀ set, w ≠ .release set) :
    u.rstCtrl = s.rstCtrl := by
  cases r <;> first | exact absurd rfl (hh _) | exact absurd rfl (hr _) | rfl

theorem Ran.rstDone_eq (r : Ran s w k (.cont u)) (hh : ∀ set, w ≠ .hold set) (hr : ∀ set, w ≠ .release set) :
    u.rstDone = s.rstDone := by
  cases r <;> first | exact absurd rfl (hh _) | exact absurd rfl (hr _) | rfl

theorem Ran.plls_eq (r : Ran s w k (.cont u)) (hw : ∀ p refdiv pd1 pd2 fbdiv vcoHz, w ≠ .pll p refdiv pd1 pd2 fbdiv vcoHz) :
    u.plls = s.plls := by
  cases r <;> first | exact absurd rfl (hw _ _ _ _ _ _) | rfl

theorem Ran.doms_eq (r : Ran s w k (.cont u)) (hm : ∀ d main auxsrc stepped, w ≠ .mux d main auxsrc stepped)
    (hd : ∀ d main auxsrc src divisor old stepped settle left,
      w ≠ .div d main auxsrc src divisor old stepped settle left) : u.doms = s.doms := by
  cases r <;> first | exact absurd rfl (hm _ _ _ _) | exact absurd rfl (hd _ _ _ _ _ _ _ _ _) | rfl

theorem Ran.fc_eq (r : Ran s w k (.cont u)) (hw : ∀ src refKhz, w ≠ .fc src refKhz) : u.fc = s.fc := by
  cases r <;> first | exact absurd rfl (hw _ _) | rfl

/-! ### The result and description registers -/

theorem Ran.pllRecords_eq (r : Ran s w k (.cont u)) (q : PllId) :
    (u.pll q).vcoHz = (s.pll q).vcoHz ∧ (u.pll q).outHz = (s.pll q).outHz := by
  by_cases hw : ∃ p refdiv pd1 pd2 fbdiv vcoHz, w = .pll p refdiv pd1 pd2 fbdiv vcoHz
  · obtain ⟨p, refdiv, pd1, pd2, fbdiv, vcoHz, rfl⟩ := hw
    cases r <;> simp [State.regWrite, State.regStore, Pll.writePwr, Pll.writeFbdiv]
    all_goals (split <;> [(subst_vars; exact ⟨rfl, rfl⟩); exact ⟨rfl, rfl⟩])
  · rw [State.pll_congr (r.plls_eq fun p refdiv pd1 pd2 fbdiv vcoHz e => hw ⟨p, refdiv, pd1, pd2, fbdiv, vcoHz, e⟩)]
    exact ⟨rfl, rfl⟩

/-- A change of a domain that keeps its two records keeps every domain's. -/
theorem State.setDom_records {d : Dom} {v : Domain} (hz : v.hz = (s.dom d).hz) (khz : v.measKhz = (s.dom d).measKhz)
    (e : Dom) : ((s.setDom d v).dom e).hz = (s.dom e).hz ∧ ((s.setDom d v).dom e).measKhz = (s.dom e).measKhz :=
  State.setDom_forall (P := fun e v => v.hz = (s.dom e).hz ∧ v.measKhz = (s.dom e).measKhz)
    (fun _ => ⟨rfl, rfl⟩) ⟨hz, khz⟩ e

theorem State.regWrite_clkCtrl_records (s : State) (d e : Dom) (v : Word) :
    ((s.regWrite (.clkCtrl d) v).dom e).hz = (s.dom e).hz ∧
      ((s.regWrite (.clkCtrl d) v).dom e).measKhz = (s.dom e).measKhz :=
  State.setDom_records (v := (s.dom d).writeCtrl d v) rfl rfl e

theorem State.regWrite_clkDiv_records (s : State) (d e : Dom) (v : Word) :
    ((s.regWrite (.clkDiv d) v).dom e).hz = (s.dom e).hz ∧
      ((s.regWrite (.clkDiv d) v).dom e).measKhz = (s.dom e).measKhz :=
  State.setDom_records (v := { s.dom d with div := v }) rfl rfl e

theorem Ran.domRecords_eq (r : Ran s w k (.cont u)) (e : Dom) :
    (u.dom e).hz = (s.dom e).hz ∧ (u.dom e).measKhz = (s.dom e).measKhz := by
  cases w
  case mux | div =>
    cases r <;> first
      | exact State.regWrite_clkCtrl_records s _ e _
      | exact State.regWrite_clkDiv_records s _ e _
      | exact ⟨rfl, rfl⟩
  all_goals
    rw [State.dom_congr (r.doms_eq (by simp) (by simp))]
    exact ⟨rfl, rfl⟩

/-- No micro-operation that goes on writes a result or description register, but for OSC_FREQ where the parameter latches
it before the Wait (70_reset_and_hazards.md R249, log entry 28). -/
theorem Ran.sameResults (r : Ran s w k (.cont u)) : s.sameResults u := by
  refine ⟨r.x_eq, fun late => ?_, r.pllRecords_eq, r.domRecords_eq⟩
  by_cases hw : ∃ f delay, w = .osc f delay
  · obtain ⟨f, delay, rfl⟩ := hw
    cases r <;> simp [late]
  · exact r.oscFreq_eq fun f delay e => hw ⟨f, delay, e⟩

/-! ### The last micro-operation -/

/-- What the last micro-operation of an operation leaves, before Complete: only the records of OSC_START,
PLL_CFG and DIV_APPLY and the hidden state of the counter change. -/
theorem Ran.finish_cases {results : List (Fin 8 × Word)} (r : Ran s w k (.finish u results)) :
    (u = s ∧ ((∃ set, w = .hold set ∧ k = 2) ∨ (∃ set, w = .release set ∧ k = 3) ∨
      ∃ d main auxsrc stepped, w = .mux d main auxsrc stepped ∧ k = 6)) ∨
    (∃ f delay, w = .osc f delay ∧ k = 5 ∧ u = s.latchOscFreq .atComplete f) ∨
    (∃ p refdiv pd1 pd2 fbdiv vcoHz, w = .pll p refdiv pd1 pd2 fbdiv vcoHz ∧ k = 9 ∧
      u = s.describePll p vcoHz (pllOutHz vcoHz pd1 pd2)) ∨
    (∃ d main auxsrc src divisor old stepped settle left,
      w = .div d main auxsrc src divisor old stepped settle left ∧ k = 8 ∧
      u = s.describeDom d (domHzOf src divisor)) ∨
    (∃ src refKhz, w = .fc src refKhz ∧ k = 8 ∧ u = { s with fc := s.fc.forget }) := by
  cases r with
  | hold2 => exact .inl ⟨rfl, .inl ⟨_, rfl, rfl⟩⟩
  | release3 => exact .inl ⟨rfl, .inr (.inl ⟨_, rfl, rfl⟩)⟩
  | mux6 => exact .inl ⟨rfl, .inr (.inr ⟨_, _, _, _, rfl, rfl⟩)⟩
  | osc5 => exact .inr (.inl ⟨_, _, rfl, rfl, rfl⟩)
  | pll9 => exact .inr (.inr (.inl ⟨_, _, _, _, _, _, rfl, rfl, rfl⟩))
  | div8 => exact .inr (.inr (.inr (.inl ⟨_, _, _, _, _, _, _, _, _, rfl, rfl, rfl⟩)))
  | fc8 => exact .inr (.inr (.inr (.inr ⟨_, _, rfl, rfl, rfl⟩)))

end Sys2Proof.Machine
end

