-- ==== Sys2Proof/Laws/PerInstr.lean ====
section
/-! SUPPORT. The families of statements about every instruction: `EncodedInItsRow` says that the word of an
instruction carries its opcode and is accepted by a row of the opcode table (30_encoding.md R80, R83). -/

namespace Sys2Proof.Laws.EncodedInItsRow

/-- The word of `i` has the opcode of `i` in bits 31:24, and some row of the opcode table accepts it. -/
def Statement (i : Instr) : Prop := opcodeOf (encode i) = opcode i ∧ rows.any (fun r => r.accepts (encode i)) = true

theorem nop : Statement .nop := by unfold Statement; decide

theorem rstHold : Statement .rstHold := by unfold Statement; decide

theorem rstRelease : Statement .rstRelease := by unfold Statement; decide

theorem oscStart : Statement .oscStart := by unfold Statement; decide

theorem pllCfg (p : PllId) (refdiv : BitVec 6) (pd1 pd2 : BitVec 3) : Statement (.pllCfg p refdiv pd1 pd2) := by
  unfold Statement
  cases p <;> revert refdiv pd1 pd2 <;> decide +kernel

theorem muxSwitch (dom : BitVec 3) (main : Path) (auxsrc : BitVec 3) : Statement (.muxSwitch dom main auxsrc) := by
  unfold Statement
  cases main <;> revert dom auxsrc <;> decide +kernel

theorem divApply (dom : BitVec 3) (main : Path) (auxsrc : BitVec 3) : Statement (.divApply dom main auxsrc) := by
  unfold Statement
  cases main <;> revert dom auxsrc <;> decide +kernel

theorem fcMeasure (src : BitVec 8) : Statement (.fcMeasure src) := by
  unfold Statement
  revert src
  decide +kernel

theorem bringup (verify : Bool) : Statement (.bringup verify) := by
  unfold Statement
  cases verify <;> decide

end Sys2Proof.Laws.EncodedInItsRow
end

