-- ==== Sys2Proof/Tests/Slice0.lean ====
section
/-! SUPPORT. Tests. Every expected value comes from the spec: the vector of 95_test_vectors.md or the rule named in the
docstring. `witness_<Name>` shows that the hypotheses of obligation `<Name>` are met, clause by clause. -/

namespace Sys2Proof.Tests

open Sys2Proof Sys2Proof.Machine

/-! ### WellFormed refuses each illegal field (30_encoding.md R82) -/

/-- REFDIV = 0. -/
theorem test_wf_refdiv_zero : (Instr.pllCfg .sys 0#6 1#3 1#3).wellFormed = false := by decide
/-- PD1 = 0. -/
theorem test_wf_pd1_zero : (Instr.pllCfg .sys 1#6 0#3 1#3).wellFormed = false := by decide
/-- PD2 = 0. -/
theorem test_wf_pd2_zero : (Instr.pllCfg .sys 1#6 1#3 0#3).wellFormed = false := by decide
/-- MUX_SWITCH on a gated domain. -/
theorem test_wf_mux_gated : (Instr.muxSwitch 2#3 .auxiliary 0#3).wellFormed = false := by decide
/-- AUXSRC must be 0 when MAIN = 0. -/
theorem test_wf_mux_reference_source : (Instr.muxSwitch 0#3 .reference 1#3).wellFormed = false := by decide
/-- A two-stage domain does not take code 3. -/
theorem test_wf_mux_code_three : (Instr.muxSwitch 1#3 .auxiliary 3#3).wellFormed = false := by decide
/-- DOM = 6. -/
theorem test_wf_div_domain_six : (Instr.divApply 6#3 .auxiliary 0#3).wellFormed = false := by decide
/-- A gated domain has no reference path. -/
theorem test_wf_div_gated_reference : (Instr.divApply 2#3 .reference 0#3).wellFormed = false := by decide
/-- AUXSRC = 4 is reserved. -/
theorem test_wf_div_code_four : (Instr.divApply 5#3 .auxiliary 4#3).wellFormed = false := by decide
/-- SRC = 0 and SRC = 11. -/
theorem test_wf_fc_source : ((Instr.fcMeasure 0#8).wellFormed || (Instr.fcMeasure 11#8).wellFormed) = false := by decide
/-- Legal commands of every family are accepted. -/
theorem test_wf_legal :
    [Instr.nop, .rstHold, .rstRelease, .oscStart, .pllCfg .aux 63#6 7#3 1#3, .muxSwitch 1#3 .auxiliary 2#3,
      .divApply 0#3 .reference 0#3, .divApply 5#3 .auxiliary 3#3, .fcMeasure 10#8, .bringup true].all
        Instr.wellFormed = true := by decide

/-! ### Decoding: words written out bit by bit from R81 and R83 -/

/-- OPC 0x00, format Z. -/
theorem test_decode_nop : decode 0b00000000_000000000000000000000000#32 = .ok .nop := by decide
/-- OPC 0x10, format Z. -/
theorem test_decode_rstHold : decode 0b00010000_000000000000000000000000#32 = .ok .rstHold := by decide
/-- OPC 0x11, format Z. -/
theorem test_decode_rstRelease : decode 0b00010001_000000000000000000000000#32 = .ok .rstRelease := by decide
/-- OPC 0x20, format Z. -/
theorem test_decode_oscStart : decode 0b00100000_000000000000000000000000#32 = .ok .oscStart := by decide
/-- OPC 0x30, format P: 0[23:19] PD2 = 2 0[15] PD1 = 6 0[11:10] REFDIV = 1 0[3:1] PLL = 0 (V-ENC-5). -/
theorem test_decode_pllCfg :
    decode 0b00110000_00000_010_0_110_00_000001_000_0#32 = .ok (.pllCfg .sys 1#6 6#3 2#3) := by decide
/-- OPC 0x30 with REFDIV = 5, PD1 = 3, PD2 = 4, PLL = 1. -/
theorem test_decode_pllCfg_aux :
    decode 0b00110000_00000_100_0_011_00_000101_000_1#32 = .ok (.pllCfg .aux 5#6 3#3 4#3) := by decide
/-- OPC 0x40, format C: 0[23:11] AUXSRC = 1 0[7:5] MAIN = 1 0[3] DOM = 1 (V-ENC-9). -/
theorem test_decode_muxSwitch :
    decode 0b01000000_0000000000000_001_000_1_0_001#32 = .ok (.muxSwitch 1#3 .auxiliary 1#3) := by decide
/-- OPC 0x50, format C: AUXSRC = 2, MAIN = 1, DOM = 4 (V-ENC-12). -/
theorem test_decode_divApply :
    decode 0b01010000_0000000000000_010_000_1_0_100#32 = .ok (.divApply 4#3 .auxiliary 2#3) := by decide
/-- OPC 0x60, format F: SRC = 5 (V-ENC-15). -/
theorem test_decode_fcMeasure : decode 0b01100000_0000000000000000_00000101#32 = .ok (.fcMeasure 5#8) := by decide
/-- OPC 0x70, format B: V = 0 and V = 1 (V-ENC-17). -/
theorem test_decode_bringup :
    decode 0b01110000_00000000000000000000000_0#32 = .ok (.bringup false) ∧
      decode 0b01110000_00000000000000000000000_1#32 = .ok (.bringup true) := by decide
/-- V-ENC-20, 21: opcodes that are not assigned. -/
theorem test_decode_unassigned :
    decode 0x12000000#32 = .error .unassignedOpcode ∧ decode 0xFFFFFFFF#32 = .error .unassignedOpcode := by decide
/-- V-ENC-22 to V-ENC-29: a must-be-zero bit of each format. -/
theorem test_decode_mustBeZero :
    [0x00000001#32, 0x10000041#32, 0x30026018#32, 0x30086010#32, 0x40000811#32, 0x50000019#32, 0x60000105#32,
      0x70000002#32].all (fun w => match decode w with
        | .error .mustBeZeroBitSet => true
        | _ => false) = true := by decide
/-- `decodeTableWord` on the table's numbering. -/
theorem test_decodeTableWord : decodeTableWord 32 0x30026010 = some (.pllCfg .sys 1#6 6#3 2#3) := by decide

/-! ### One step on a small state -/

/-- The step that runs micro-operation `k` of the command word `w` with the hidden state `work`, on the state `s`. -/
def at_ (s : State) (w : Word) (work : Work) (k : BitVec 8) : State :=
  { s.issue w with work := work, step := k }

/-- The next state of a step, or the state itself where the step stops. -/
def after (s : State) : State :=
  match step s with
  | .next t => t
  | .fault _ => s
  | .refused _ => s

/-- The crystal is up and its frequency is known (start state S1 of 95_test_vectors.md). -/
def crystal : State :=
  { State.reset with
    osc := { State.reset.osc with enable := true, stable := true, delay := 47#16 }, oscFreq := 12000000#32 }

/-- A PLL that is locked and powered (start state S2). -/
def lockedPll (out : Word) : Pll :=
  { Pll.reset with lock := true, corePd := false, vcoPd := false, postdivPd := false, fbdiv := 125#9, outHz := out }

/-- Both PLLs are locked (start state S2). -/
def locked : State := { crystal with plls := ⟨lockedPll 125000000#32, lockedPll 48000000#32⟩ }

/-- `s` with the operands x[0] and x[1]. -/
def given (s : State) (a b : Word) : State := { s with x := (s.x.set 0 a).set 1 b }

/-- V-MEM-11: NOP completes. -/
theorem test_nop : (after (State.reset.issue 0#32)).regRead .status = 0x2#32 := by decide
/-- The step from `withFetchWord` runs the table's word as the first instruction (V-MEM-11). -/
theorem test_withFetchWord : (after (State.reset.withFetchWord 32 0)).regRead .status = 0x2#32 := by decide
/-- V-RST-2: a bit outside `PERIPH_ALL`. -/
theorem test_rstHold_badOperand :
    (after ((given State.reset 0x80#32 0#32).issue 0x10000000#32)).regRead .err = 0x00101702#32 := by decide
/-- R101's example: RST_CTRL = 0x00, set 0x41. -/
theorem test_rstHold_write :
    (after (at_ { State.reset with rstCtrl := 0#32, rstDone := 0x7F#32 } 0x10000000#32 (.hold 0x41#32) 1#8)).trace =
        [.write .rstCtrl 0x41#32] ∧
      (after (at_ { State.reset with rstCtrl := 0#32, rstDone := 0x7F#32 } 0x10000000#32 (.hold 0x41#32) 1#8)).rstDone =
        0x3E#32 := by decide
/-- V-RST-3: the ADC's domain is not configured. -/
theorem test_rstRelease_dep :
    (after ((given State.reset 1#32 0#32).issue 0x11000000#32)).regRead .err = 0x00111402#32 ∧
      (after ((given State.reset 1#32 0#32).issue 0x11000000#32)).errsnap = 1#32 := by decide
/-- V-RST-4: the empty set is satisfied by its first poll. -/
theorem test_rstRelease_wait :
    (after (at_ State.reset 0x11000000#32 (.release 0#32) 2#8)).trace = [.wait .resetDone .rstDone 0#32] := by decide
/-- R111, R112: 12 MHz keeps the delay 47. -/
theorem test_oscStart_delay :
    (after ((given State.reset 12000000#32 0#32).issue 0x20000000#32)).work = .osc 12000000#32 47#16 := by decide
/-- R111: an oscillator that is already enabled is refused with LOCKED and OSC_CTRL = 0x100. -/
theorem test_oscStart_locked :
    (after ((given crystal 12000000#32 0#32).issue 0x20000000#32)).regRead .err = 0x00201902#32 ∧
      (after ((given crystal 12000000#32 0#32).issue 0x20000000#32)).errsnap = 0x100#32 := by decide
/-- V-PLL-2 (S-3): target 100 MHz gives fbdiv 8, refused. -/
theorem test_pllCfg_range :
    (after ((given crystal 100000000#32 0#32).issue 0x30026010#32)).regRead .err = 0x00300101#32 ∧
      (after ((given crystal 100000000#32 0#32).issue 0x30026010#32)).errsnap = 8#32 := by decide
/-- V-PLL-1 (S-3): target 1500 MHz keeps fbdiv 125. -/
theorem test_pllCfg_accepts :
    (after ((given crystal 1500000000#32 0#32).issue 0x30026010#32)).work =
      .pll .sys 1#6 6#3 2#3 125#9 1500000000#32 := by decide
/-- R141 (d): an unconfigured auxiliary source. -/
theorem test_muxSwitch_unconfigured :
    (after (State.reset.issue 0x40000111#32)).regRead .err = 0x01401302#32 := by decide
/-- R143's example: M3 writes AUXSRC while MAIN is 0. -/
theorem test_muxSwitch_m3 :
    (after (at_ locked 0x40000111#32 (.mux .sys .auxiliary 1#3 false) 3#8)).trace =
      [.write (.clkCtrl .sys) 0x10#32] := by decide
/-- V-DIV-5 (S-7): 48 MHz to 46875 Hz is 0x40000. -/
theorem test_divApply_divisor :
    (after ((given locked 48000000#32 46875#32).issue 0x50000214#32)).work =
      .div .rtc .auxiliary 2#3 48000000 0x40000#32 0x100#32 false 0 0 := by decide
/-- S-2: dest_freq above source_freq is refused before any write. -/
theorem test_divApply_destGtSrc :
    (after ((given locked 48000000#32 48000001#32).issue 0x50000214#32)).regRead .err = 0x04500201#32 ∧
      (after ((given locked 48000000#32 48000001#32).issue 0x50000214#32)).trace = [] := by decide
/-- V-ENC-16: SRC = 255 is refused with FC_PARAM. -/
theorem test_fcMeasure_param :
    (after ((given State.reset 12000#32 0#32).issue 0x600000FF#32)).errsnap = 0xFF#32 := by decide
/-- R172 STEP 6 (R55): the write of FC_SRC starts the measurement with W = 12 288 (R174). -/
theorem test_fcMeasure_start :
    let s := { State.reset with fc := { State.reset.fc with refKhz := 12000#32, interval := 10#4 } }
    (after (at_ s 0x60000005#32 (.fc 5#8 12000#32) 6#8)).fc.window = 12288 := by decide
/-- V-SEQ-2: BRINGUP in Ready. -/
theorem test_bringup_locked :
    (after ({ State.reset with fsm := .ready }.issue 0x70000000#32)).regRead .err = 0x00701902#32 := by decide
/-- R187: BRINGUP begins with RST_HOLD of `PERIPH_ALL`. -/
theorem test_bringup_start : (after (State.reset.issue 0x70000001#32)).work = .hold 0x7F#32 := by decide
/-- V-ENC-20: the illegal word's report. -/
theorem test_illegal_word :
    (after (State.reset.issue 0x12000000#32)).regRead .err = 0x00124004#32 ∧
      (after (State.reset.issue 0x12000000#32)).errsnap = 0x12000000#32 := by decide
/-- R203 with WAIT_LIMIT = 3 (program P5): the third unsuccessful poll is fatal, cause 0x22. -/
theorem test_wait_timeout :
    (after { at_ crystal 0x30026010#32 (.pll .sys 1#6 6#3 2#3 125#9 0#32) 6#8 with
      waitLimit := 3#32, pollcnt := 2#32 }).regRead .err = 0x00302203#32 := by decide
/-- V-MEM-1: reset values read at their offsets. -/
theorem test_reset_reads :
    [0x004, 0x100, 0x104, 0x144, 0x14C, 0x164, 0x204, 0x208, 0x228, 0x244].map State.reset.wordAt =
      [0x0#32, 0x7F#32, 0x0#32, 0x7#32, 0x77#32, 0x7#32, 0x100#32, 0x1#32, 0x2#32, 0x100#32] := by decide
/-- V-MEM-7: a host write while a command runs is dropped and sets OVERRUN. -/
theorem test_overrun :
    ((at_ State.reset 0x20000000#32 (.osc 0#32 0#16) 4#8).hostAccess (.write 0#32 4 0#32)).regRead .status =
      0x409#32 := by decide

/-! ### Witnesses: the hypotheses of each obligation hold together, clause by clause -/

/-- A release whose Wait is in progress, with the empty set (V-RST-4 at STEP 2). -/
def releasing : State := at_ State.reset 0x11000000#32 (.release 0#32) 2#8

/-- A block that the default bring-up has left (46_bringup_sequencer.md R192, S4), without its frequencies. -/
def ready : State :=
  { locked with
    fsm := .ready, rstCtrl := 0#32, rstDone := 0x7F#32,
    doms :=
      { ref := { Domain.reset .auxiliary with main := .auxiliary, valid := true },
        sys := { Domain.reset .auxiliary with main := .auxiliary, auxsrc := 1#3, valid := true },
        usb := { Domain.reset .auxiliary with auxsrc := 2#3, enable := true, valid := true },
        adc := { Domain.reset .auxiliary with auxsrc := 2#3, enable := true, valid := true },
        rtc := { Domain.reset .auxiliary with auxsrc := 2#3, enable := true, valid := true },
        peri := { Domain.reset .auxiliary with auxsrc := 3#3, enable := true, valid := true } } }

/-- A step that answers a next state, as a Bool. -/
def answers (o : Host.Outcome State Fault Refusal) : Bool :=
  match o with
  | .next _ => true
  | .fault _ => false
  | .refused _ => false

/-- An outcome that answers a next state has one. -/
theorem exists_of_answers {o : Host.Outcome State Fault Refusal} (h : answers o = true) : ∃ t, o = .next t := by
  cases o with
  | next t => exact ⟨t, rfl⟩
  | fault _ => simp [answers] at h
  | refused _ => simp [answers] at h

theorem witness_IllegalWordRejected :
    State.reset.busy = false ∧ State.reset.fsm ≠ .failed ∧ State.reset.schedule = [] ∧
      ∀ i, decode 0x12000000#32 ≠ .ok i := by
  refine ⟨by decide, by decide, by decide, fun i h => ?_⟩
  rw [show decode 0x12000000#32 = .error .unassignedOpcode by decide] at h
  exact absurd h (by simp)

/-- No register is at the last offset of the space, nor at the gap before X0. -/
theorem unmapped : (∀ r : Reg, r.offset ≠ 0xFFC) ∧ (∀ r : Reg, r.offset ≠ 0x01C) := by
  constructor <;> intro r <;> cases r <;> (try simp [Reg.offset]) <;>
    first
    | omega
    | (rename_i d; cases d <;> decide)

theorem witness_HostReads :
    (Reg.cmd.offset = 0x000 ∧ (0x000 : Nat) < 0x1000) ∧ (Reg.fcResult.offset = 0x318 ∧ (0x318 : Nat) < 0x1000) ∧
      ((∀ r : Reg, r.offset ≠ 0xFFC) ∧ 0xFFC % 4 = 0 ∧ (0xFFC : Nat) < 0x1000) ∧
      (¬((2 : Nat) = 4 ∧ 0x000 % 4 = 0) ∧ ¬((4 : Nat) = 4 ∧ 0xFFE % 4 = 0) ∧ (0xFFE : Nat) < 0x1000) :=
  ⟨by decide, by decide, ⟨unmapped.1, by decide, by decide⟩, by decide⟩

theorem witness_HostWrites :
    (State.reset.busy = false ∧ State.reset.fsm ≠ .failed) ∧ ¬(releasing.busy = false ∧ releasing.fsm ≠ .failed) ∧
      [0x000, 0x020, 0x03C, 0x010, 0x004, 0x01C, 0x040, 0xFFC].all (fun o => decide (o < 0x1000) && o % 4 == 0) = true ∧
      (0x020 : Nat) = 0x020 + 4 * (0 : Fin 8).val ∧ (0x03C : Nat) = 0x020 + 4 * (7 : Fin 8).val := by decide

theorem witness_StepRunsDecoded :
    (releasing.busy = true ∧ releasing.fsm ≠ .failed ∧ decode releasing.cmd = .ok .rstRelease ∧
      releasing.schedule = []) ∧
    (State.reset.busy = false ∧ State.reset.schedule = []) ∧
    ({ releasing with schedule := [.engine] }.schedule = .engine :: []) ∧
    ({ releasing with schedule := [.env .oscStable] }.schedule = .env .oscStable :: []) ∧
    ({ releasing with schedule := [.host (.read 0#32 4)] }.schedule = .host (.read 0#32 4) :: []) := by decide

theorem witness_ReadyRefuses :
    ready.fsm = .ready ∧ ready.sub = 0#8 ∧ ready.step = 0#8 ∧ Instr.bringup true ≠ .nop ∧
      ∀ src, Instr.bringup true ≠ .fcMeasure src := by
  exact ⟨by decide, by decide, by decide, by decide, fun src h => by cases h⟩

/-- The Wait of RST_RELEASE at its satisfied and its unsatisfied poll, and the last Wait of a limit of 1. -/
theorem witness_WaitPolls :
    (releasing.opOf .rstRelease = some (.release 0#32) ∧ (Op.release 0#32).inFlight releasing ∧
      releasing.awaited = some (.resetDone, .rstDone, 0#32, 0#32) ∧ releasing.regRead .rstDone &&& 0#32 = 0#32) ∧
    (let s := at_ crystal 0x30026010#32 (.pll .sys 1#6 6#3 2#3 125#9 0#32) 6#8
     s.opOf (.pllCfg .sys 1#6 6#3 2#3) = some (.pll .sys 1#6 6#3 2#3 0#32) ∧
      (Op.pll .sys 1#6 6#3 2#3 0#32).inFlight s ∧
      s.awaited = some (.pllLock, .pllCs .sys, 0x80000000#32, 0x80000000#32) ∧
      s.regRead (.pllCs .sys) &&& 0x80000000#32 ≠ 0x80000000#32 ∧ s.waitLimit = 0#32) ∧
    (let s := { at_ crystal 0x30026010#32 (.pll .sys 1#6 6#3 2#3 125#9 0#32) 6#8 with waitLimit := 1#32 }
     (Op.pll .sys 1#6 6#3 2#3 0#32).inFlight s ∧ s.waitLimit ≠ 0#32 ∧ s.waitLimit ≤ s.pollcnt + 1#32) := by
  refine ⟨⟨by decide, .inr ⟨by decide, by decide, rfl⟩, by decide, by decide⟩,
    ⟨by decide, .inr ⟨by decide, by decide, ⟨rfl, rfl, rfl, rfl⟩⟩, by decide, by decide, by decide⟩,
    ⟨.inr ⟨by decide, by decide, ⟨rfl, rfl, rfl, rfl⟩⟩, by decide, by decide⟩⟩

theorem witness_RegWriteFrame :
    (Reg.rstCtrl ≠ .fcSrc) ∧ (Reg.fcSrc = .rstCtrl → Reg.rstCtrl ≠ .rstDone) ∧ (Reg.fcSrc = .fcSrc → Reg.rstCtrl ≠ .fcStatus) ∧
      (Reg.fcSrc = .oscCtrl → Reg.rstCtrl ≠ .oscStatus) ∧
      ∀ p, Reg.fcSrc = .pllPwr p ∨ Reg.fcSrc = .pllFbdiv p → Reg.rstCtrl ≠ .pllCs p := by
  exact ⟨by decide, by decide, by decide, by decide, fun p h => by rcases h with h | h <;> cases h⟩

theorem witness_NopRuns :
    (State.reset.fsm = .powerOnReset ∧ State.reset.step = 0#8) ∧ (ready.fsm = .ready ∧ ready.overrun = false) := by decide

/-- The reset lines after reset. -/
theorem resetLines_reset : State.reset.ResetLines := ⟨by decide, by decide, by decide⟩

/-- The reset lines after reset, at any position of RST_HOLD and RST_RELEASE. -/
theorem resetLines_at (w : Word) (work : Work) (k : BitVec 8) : (at_ State.reset w work k).ResetLines :=
  ⟨resetLines_reset.held, resetLines_reset.done, resetLines_reset.exclusive⟩

theorem witness_RstHoldRuns :
    ((given State.reset 0x7F#32 0#32).ResetLines ∧ (given State.reset 0x7F#32 0#32).fsm = .powerOnReset ∧
      (given State.reset 0x7F#32 0#32).step = 0#8) ∧
    ∀ k ∈ [1#8, 2#8], (at_ State.reset 0x10000000#32 (.hold 0x7F#32) k).ResetLines ∧
      (at_ State.reset 0x10000000#32 (.hold 0x7F#32) k).work = .hold 0x7F#32 ∧
      0x7F#32 &&& ~~~State.reset.params.periphAll = 0#32 ∧
      (at_ State.reset 0x10000000#32 (.hold 0x7F#32) k).step = k :=
  ⟨⟨⟨by decide, by decide, by decide⟩, by decide, by decide⟩, fun k _ => ⟨resetLines_at _ _ k, rfl, by decide, rfl⟩⟩

theorem witness_RstReleaseRuns :
    (State.reset.ResetLines ∧ State.reset.fsm = .powerOnReset ∧ State.reset.step = 0#8) ∧
    ∀ k ∈ [1#8, 2#8, 3#8], (at_ State.reset 0x11000000#32 (.release 0#32) k).ResetLines ∧
      (at_ State.reset 0x11000000#32 (.release 0#32) k).work = .release 0#32 ∧
      (at_ State.reset 0x11000000#32 (.release 0#32) k).step = k ∧
      (at_ State.reset 0x11000000#32 (.release 0#32) k).rstDone &&& 0#32 = 0#32 :=
  ⟨⟨⟨by decide, by decide, by decide⟩, by decide, by decide⟩, fun k _ =>
    ⟨resetLines_at _ _ k, rfl, rfl, show (0#32 : Word) &&& 0#32 = 0#32 by decide⟩⟩

theorem witness_OscStartRuns :
    State.reset.fsm = .powerOnReset ∧
    ∀ k ∈ [1#8, 2#8, 3#8, 4#8, 5#8], (at_ crystal 0x20000000#32 (.osc 12000000#32 47#16) k).work = .osc 12000000#32 47#16 ∧
      (at_ crystal 0x20000000#32 (.osc 12000000#32 47#16) k).step = k ∧
      (at_ crystal 0x20000000#32 (.osc 12000000#32 47#16) k).osc.stable = true :=
  ⟨rfl, fun _ _ => ⟨rfl, rfl, rfl⟩⟩

theorem witness_PllCfgValidates : crystal.step = 0#8 ∧ crystal.fsm = .powerOnReset := by decide

theorem witness_PllCfgRuns :
    ∀ k ∈ [1#8, 2#8, 3#8, 4#8, 5#8, 6#8, 7#8, 8#8, 9#8],
      (at_ locked 0x30026010#32 (.pll .sys 1#6 6#3 2#3 125#9 1500000000#32) k).work =
        .pll .sys 1#6 6#3 2#3 125#9 1500000000#32 ∧
      (at_ locked 0x30026010#32 (.pll .sys 1#6 6#3 2#3 125#9 1500000000#32) k).step = k ∧
      ((at_ locked 0x30026010#32 (.pll .sys 1#6 6#3 2#3 125#9 1500000000#32) k).pll .sys).lock = true :=
  fun _ _ => ⟨rfl, rfl, rfl⟩

theorem witness_MuxSwitchValidates :
    locked.step = 0#8 ∧ locked.fsm = .powerOnReset ∧ 1 < (2#3).toNat ∧ 1 < (7#3).toNat ∧
      (Dom.ref.twoStage = true ∧ (0#3).toNat = Dom.ref.index) ∧ (Dom.sys.twoStage = true ∧ (1#3).toNat = Dom.sys.index) := by
  decide

/-- Both kinds of switch: to the auxiliary path with the step back done, and to the reference path. -/
theorem witness_MuxSwitchRuns :
    (1#3).toNat = Dom.sys.index ∧ Dom.sys.twoStage = true ∧
    ∀ k ∈ [1#8, 2#8, 3#8, 4#8, 5#8, 6#8], ∀ stepped ∈ [true, false],
      (at_ locked 0x40000001#32 (.mux .sys .reference 0#3 stepped) k).work = .mux .sys .reference 0#3 stepped ∧
      (at_ locked 0x40000001#32 (.mux .sys .reference 0#3 stepped) k).step = k ∧
      ((at_ locked 0x40000001#32 (.mux .sys .reference 0#3 stepped) k).dom .sys).selected = .reference :=
  ⟨by decide, by decide, fun _ _ _ _ => ⟨rfl, rfl, rfl⟩⟩

theorem witness_DivApplyValidates :
    locked.step = 0#8 ∧ locked.fsm = .powerOnReset ∧ 5 < (6#3).toNat ∧ (5#3).toNat = Dom.peri.index ∧
      (0#3).toNat = Dom.ref.index := by decide

theorem witness_DivApplyRuns :
    (0#3).toNat = Dom.ref.index ∧ Dom.ref.twoStage = true ∧
    ∀ k ∈ [1#8, 2#8, 3#8, 4#8, 5#8, 6#8, 7#8, 8#8], ∀ stepped ∈ [true, false],
      (at_ locked 0x50000000#32 (.div .ref .reference 0#3 6000000 256#32 256#32 stepped 0 0) k).work =
        .div .ref .reference 0#3 6000000 256#32 256#32 stepped 0 0 ∧
      (at_ locked 0x50000000#32 (.div .ref .reference 0#3 6000000 256#32 256#32 stepped 0 0) k).step = k ∧
      ((at_ locked 0x50000000#32 (.div .ref .reference 0#3 6000000 256#32 256#32 stepped 0 0) k).dom .ref).selected =
        .reference :=
  ⟨by decide, by decide, fun _ _ _ _ => ⟨rfl, rfl, rfl⟩⟩

theorem witness_GatedSequenceRuns :
    (4#3).toNat = Dom.rtc.index ∧ Dom.rtc.twoStage = false ∧ (1 : Nat) ≤ 1 ∧ (1 : Nat) < 2 ∧
    ∀ k ∈ [2#8, 3#8, 4#8, 5#8, 6#8], ∀ left ∈ [0, 1, 2],
      (at_ locked 0x50000214#32 (.div .rtc .auxiliary 2#3 48000000 262144#32 256#32 false 2 left) k).work =
        .div .rtc .auxiliary 2#3 48000000 262144#32 256#32 false 2 left ∧
      (at_ locked 0x50000214#32 (.div .rtc .auxiliary 2#3 48000000 262144#32 256#32 false 2 left) k).step = k :=
  ⟨by decide, by decide, by decide, by decide, fun _ _ _ _ => ⟨rfl, rfl⟩⟩

theorem witness_FcMeasureRuns :
    (State.reset.step = 0#8 ∧ State.reset.fsm = .powerOnReset) ∧ (ready.step = 0#8 ∧ ready.fsm = .ready) ∧
    ∀ k ∈ [1#8, 2#8, 3#8, 4#8, 5#8, 6#8, 7#8, 8#8],
      let s := { at_ ready 0x60000005#32 (.fc 5#8 12000#32) k with fc := { ready.fc with done := true } }
      s.work = .fc 5#8 12000#32 ∧ s.step = k ∧ s.fc.running = false ∧ s.fc.done = true :=
  ⟨by decide, by decide, fun _ _ => ⟨rfl, rfl, rfl, rfl⟩⟩

/-- The five clauses of BRINGUP: its start, a micro-operation that goes on, one that ends SUB 0, one that rejects (OSC_START in
SUB 2 with the oscillator already started, V-SEQ-6), the ends of SUB 12 and 17, and the end without verification. -/
theorem witness_BringupRuns :
    (State.reset.fsm = .powerOnReset ∧ State.reset.sub = 0#8 ∧ State.reset.step = 0#8) ∧
    (let s := at_ State.reset 0x70000000#32 (.hold 0x7F#32) 1#8
     s.planOp false s.sub.toNat = some (.hold 0x7F#32) ∧ ¬(s.sub = 0#8 ∧ s.step = 0#8) ∧
      ∃ t, runOp (.hold 0x7F#32) s = .cont t) ∧
    (let s := at_ State.reset 0x70000000#32 (.hold 0x7F#32) 2#8
     s.planOp false s.sub.toNat = some (.hold 0x7F#32) ∧ s.sub.toNat < 12 ∧ ∃ t xs, runOp (.hold 0x7F#32) s = .finish t xs) ∧
    (let s := { at_ crystal 0x70000000#32 .idle 0#8 with sub := 2#8 }
     s.planOp false s.sub.toNat = some (.osc 12000000#32) ∧ ∃ r, runOp (.osc 12000000#32) s = .reject r) ∧
    (∀ d ∈ [Dom.ref, Dom.peri], ∀ n ∈ [12#8 + BitVec.ofNat 8 d.index],
      let s := { at_ ready 0x70000001#32 (.fc 4#8 12000#32) 8#8 with fsm := .allPeripheralsReleased, sub := n }
      s.sub.toNat = 12 + d.index ∧ s.step = 8#8 ∧ s.work = .fc 4#8 12000#32) ∧
    (let s := { at_ ready 0x70000000#32 .idle 0#8 with fsm := .allPeripheralsReleased, sub := 12#8 }
     s.sub = 12#8 ∧ s.step = 0#8) :=
  ⟨by decide, ⟨by decide, by decide, _, rfl⟩, ⟨by decide, by decide, _, _, rfl⟩, ⟨by decide, _, rfl⟩, by decide,
    by decide⟩

theorem witness_SubOperationsAreCommands :
    releasing.opOf .rstRelease = some (.release 0#32) ∧ releasing.step ≠ 0#8 ∧
      (∃ t, runOp (.release 0#32) releasing = .cont t) ∧
      (∃ t xs, runOp (.release 0#32) (at_ State.reset 0x11000000#32 (.release 0#32) 3#8) = .finish t xs) ∧
      (∃ r, runOp (.release 1#32) (State.reset.issue 0x11000000#32) = .reject r) ∧
      ∃ x, runOp (.release 1#32)
        { at_ State.reset 0x11000000#32 (.release 1#32) 2#8 with waitLimit := 1#32 } = .timeout .resetDone x :=
  ⟨by decide, by decide, ⟨_, rfl⟩, ⟨_, _, rfl⟩, ⟨_, rfl⟩, ⟨_, rfl⟩⟩

/-- The BRINGUP half: the release of SUB 1 goes on, ends, times out, and (SUB 11, no clock domain configured) rejects. -/
theorem witness_SubOperationsAreCommands_bringup :
    (let s := { at_ State.reset 0x70000000#32 (.release 0#32) 1#8 with sub := 1#8 }
     s.planOp false s.sub.toNat = some (.release 0#32) ∧ s.sub ≠ 0#8 ∧ ∃ t, runOp (.release 0#32) s = .cont t) ∧
    (let s := { at_ State.reset 0x70000000#32 (.release 0#32) 3#8 with sub := 1#8 }
     ∃ t xs, runOp (.release 0#32) s = .finish t xs) ∧
    (let s := { at_ State.reset 0x70000000#32 (.release 0x7F#32) 2#8 with sub := 11#8, waitLimit := 1#32 }
     s.planOp false s.sub.toNat = some (.release 0x7F#32) ∧ ∃ x, runOp (.release 0x7F#32) s = .timeout .resetDone x) ∧
    (let s := { State.reset.issue 0x70000000#32 with sub := 11#8, fsm := .derivedClocksConfigured }
     s.planOp false s.sub.toNat = some (.release 0x7F#32) ∧ ∃ r, runOp (.release 0x7F#32) s = .reject r) :=
  ⟨⟨by decide, by decide, _, rfl⟩, ⟨_, _, rfl⟩, ⟨by decide, _, rfl⟩, by decide, _, rfl⟩

/-- An idle state with nothing in progress is positioned. -/
theorem positioned_of_idle {s : State} (busy : s.busy = false) (sub : s.sub = 0#8) (step : s.step = 0#8)
    (poll : s.pollcnt = 0#32) (work : s.work = .idle) (fsm : s.fsm = .powerOnReset ∨ s.fsm = .ready ∨ s.fsm = .failed) :
    s.Positioned :=
  ⟨fun _ => ⟨sub, step, poll, work⟩, fun _ => fsm, fun h => by simp [busy] at h, fun h => by simp [busy] at h⟩

theorem witness_RejectKeepsState :
    (given State.reset 0x80#32 0#32).Positioned ∧ (given State.reset 0x80#32 0#32).busy = false ∧
      decode 0x10000000#32 = .ok .rstHold ∧
      ∃ t, exec .rstHold ((given State.reset 0x80#32 0#32).issue 0x10000000#32) = .next t ∧ t.error = true :=
  ⟨positioned_of_idle rfl rfl rfl rfl rfl (.inl rfl), rfl, by decide, _, rfl, rfl⟩

theorem witness_FatalKeepsState :
    let s := { at_ crystal 0x30026010#32 (.pll .sys 1#6 6#3 2#3 125#9 0#32) 6#8 with waitLimit := 1#32 }
    s.fsm ≠ .failed ∧ ∃ t, exec (.pllCfg .sys 1#6 6#3 2#3) s = .next t ∧ t.fsm = .failed :=
  ⟨by decide, _, rfl, rfl⟩

theorem witness_FailedFinal :
    ∃ t, step { State.reset with fsm := .failed, schedule := [.host (.write 0#32 4 0#32)] } = .next t :=
  ⟨_, rfl⟩

theorem witness_ResetOscNopFrame :
    answers (exec .nop State.reset) = true ∧ answers (exec .rstHold State.reset) = true ∧
      answers (exec .rstRelease releasing) = true ∧ answers (exec .oscStart crystal) = true := by decide

/-- The clause on the result and description registers, at the two micro-operations of OSC_START that may latch OSC_FREQ: STEP 3
leaves DONE 0 with either parameter, and with the latch at Complete it is STEP 5 that writes OSC_FREQ (R111, R249). -/
theorem witness_frame_results :
    let s (place : Config.OscFreqLatch) (k : BitVec 8) : State :=
      at_ { State.reset with params := { State.reset.params with oscFreqLatch := place } } 0x20000000#32
        (.osc 12000000#32 47#16) k
    (after (s .beforeWait 3#8)).done = false ∧ (after (s .beforeWait 3#8)).oscFreq = 12000000#32 ∧
      (after (s .atComplete 3#8)).done = false ∧ (after (s .atComplete 3#8)).oscFreq = 0#32 ∧
      (after (s .atComplete 5#8)).done = true ∧ (after (s .atComplete 5#8)).oscFreq = 12000000#32 := by decide

theorem witness_PllCfgFrame :
    let s := at_ crystal 0x30026010#32 (.pll .sys 1#6 6#3 2#3 125#9 0#32) 1#8
    (∀ o, s.opOf (.pllCfg .sys 1#6 6#3 2#3) = some o → o.inFlight s) ∧
      answers (exec (.pllCfg .sys 1#6 6#3 2#3) s) = true := by
  refine ⟨fun o h => ?_, by decide⟩
  obtain rfl := Option.some.inj h
  exact .inr ⟨by decide, by decide, rfl, rfl, rfl, rfl⟩

theorem witness_ClockCommandsFrame :
    (let s := at_ locked 0x40000111#32 (.mux .sys .auxiliary 1#3 false) 3#8
     (∀ o, s.opOf (.muxSwitch 1#3 .auxiliary 1#3) = some o → o.inFlight s) ∧
      answers (exec (.muxSwitch 1#3 .auxiliary 1#3) s) = true) ∧
    (let s := at_ locked 0x50000214#32 (.div .rtc .auxiliary 2#3 0 262144#32 256#32 false 0 0) 8#8
     (∀ o, s.opOf (.divApply 4#3 .auxiliary 2#3) = some o → o.inFlight s) ∧
      answers (exec (.divApply 4#3 .auxiliary 2#3) s) = true) := by
  refine ⟨⟨fun o h => ?_, by decide⟩, ⟨fun o h => ?_, by decide⟩⟩
  · obtain rfl := Option.some.inj h
    exact .inr ⟨by decide, by decide, by decide, by decide, rfl, rfl⟩
  · obtain rfl := Option.some.inj h
    exact .inr ⟨by decide, by decide, by decide, rfl, rfl, by decide⟩

theorem witness_FcMeasureFrame : answers (exec (.fcMeasure 5#8) (given ready 12000#32 0#32)) = true := by decide

theorem witness_BringupFrame : answers (exec (.bringup false) (at_ State.reset 0x70000000#32 (.hold 0x7F#32) 1#8)) = true := by
  decide

theorem witness_SolverIsSound : locked.pllRejection .sys 1#6 6#3 2#3 1500000000#32 = none := by decide

theorem witness_DivisorIsSound :
    divisorRejection 48000000 46875#32 = none ∧ divisorRejection 1 1#32 = none ∧
      divisorRejection 0xFFFFFFFF 0x101#32 = none := by decide

theorem witness_CounterResolution :
    (0 : Nat) < 1 ∧ (0 : Nat) < 12000 ∧ (0 : Nat) < 12288 ∧ (12000#32).toNat = 12000 ∧
      (edgeCount ⟨48048048, 1⟩ (Freq.ofHz (1000 * 12000)) 12288).round true * 12000 / 12288 < 2 ^ 32 := by decide

theorem witness_EnvironmentSteps :
    Dom.usb.twoStage = false ∧ Dom.sys.twoStage = true ∧
      (let s := { ready with fc := { ready.fc with running := true } }
       s.fc.running = true ∧ (s.fOut .ref).pos = true) ∧ ¬(ready.fc.running = true ∧ (ready.fOut .ref).pos = true) := by decide

/-- A switch of REF to the running crystal is pending. -/
theorem witness_GlitchFreeSwitch :
    Dom.ref.twoStage = true ∧ (locked.dom .ref).selected = .reference ∧
      (locked.setDom .ref { locked.dom .ref with main := .auxiliary }).canMuxFlip .ref = true := by decide

theorem witness_NothingUndone :
    ∃ t, step ready = .next t ∧ ready.osc.enable = true ∧ ready.osc.stable = true ∧ (ready.dom .usb).valid = true :=
  ⟨_, rfl, rfl, rfl, rfl⟩

theorem witness_ResetSatisfiesInvariants : Config.defaultParams.ok = true := by decide

/-- The default parameters contain the late set (00_scope.md R5). -/
theorem periphAll_ok : releasing.params.periphAll &&& Config.lateSet = Config.lateSet := by decide

/-- RST_RELEASE at its Wait is a position of the latched command. -/
theorem releasing_positioned : releasing.Positioned := by
  refine ⟨fun h => absurd h (by decide), fun h => absurd h (by decide), fun _ => by decide, fun _ => ?_⟩
  rw [show decode releasing.fetch = .ok .rstRelease by decide]
  exact .inr ⟨rfl, .inl rfl, .inr ⟨by decide, by decide, rfl⟩⟩

/-- It meets every invariant: the premises of `PositionKept`, `NeverStops`, `RangesKept`, `ResetMaskKept`, `AuxReadyKept`,
`LockOrderKept`, `OwnershipKept`, `AuxStageQuiet`, `BroughtUpKept` and `FsmLinear`. -/
theorem witness_invariants :
    releasing.Positioned ∧ releasing.Ranges ∧ releasing.ResetLines ∧ releasing.ResetMask ∧ releasing.AuxReady ∧
      releasing.LockOrder ∧ releasing.CounterOwned ∧ releasing.SwitchOwned ∧ releasing.SteppedBack ∧ releasing.PollsInWait ∧
      releasing.Progress ∧ releasing.BroughtUp ∧ ∃ t, step releasing = .next t := by
  refine ⟨releasing_positioned, ⟨?_, ?_, by decide, ?_, trivial⟩, ⟨by decide, by decide, by decide⟩, ⟨?_, ?_⟩, ⟨?_, trivial⟩,
    ⟨?_, ?_, trivial⟩, ⟨fun h => absurd h (by decide), fun h => absurd h (by decide)⟩, ?_, trivial, fun h => absurd rfl h,
    ⟨fun _ => by decide, fun h => absurd h (by decide)⟩, ?_, ⟨_, rfl⟩⟩
  · intro d; cases d <;> decide
  · intro p; cases p <;> decide
  · intro d; cases d <;> decide
  · intro p d h hp
    have : p < 7 := by
      by_contra hn
      have : clockDep p = none := by
        unfold clockDep
        split <;> first | omega | rfl
      simp [this] at h
    interval_cases p <;> exact absurd hp (by decide)
  · intro p d _ h
    simp [BitVec.getLsbD] at h
  · intro d; cases d <;> decide
  · intro p; cases p <;> decide
  · intro p h; cases p <;> exact absurd h (by decide)
  · intro d ht h; cases d <;> first | exact absurd rfl h | exact absurd ht (by decide)
  · have none : ∀ k, ¬releasing.reached k := by
      rintro k (h | ⟨-, ⟨v, h⟩, -⟩)
      · exact absurd h (by decide)
      · rw [show decode releasing.fetch = .ok .rstRelease by decide] at h
        cases h
    exact ⟨fun h => absurd h (none _), fun h => absurd h (none _), fun h => absurd h (none _), fun d h => absurd h (none _),
      fun h => absurd h (none _)⟩

/-- A change of AUXSRC for `AuxStageQuiet`: M3 of a switch of SYS, from the reference path. -/
theorem witness_AuxStageQuiet :
    let s := at_ locked 0x40000111#32 (.mux .sys .auxiliary 1#3 false) 3#8
    s.Positioned ∧ s.SwitchOwned ∧ s.SteppedBack ∧
      ∃ t, step s = .next t ∧ (t.dom .sys).auxsrc ≠ (s.dom .sys).auxsrc ∧ Dom.sys.twoStage = true := by
  refine ⟨⟨fun h => absurd h (by decide), fun h => absurd h (by decide), fun _ => by decide, fun _ => ?_⟩, ?_, ?_,
    _, rfl, by decide, rfl⟩
  · rw [show decode (at_ locked 0x40000111#32 (.mux .sys .auxiliary 1#3 false) 3#8).fetch =
      .ok (.muxSwitch 1#3 .auxiliary 1#3) by decide]
    exact .inr ⟨rfl, .inl rfl, .inr ⟨by decide, by decide, by decide, by decide, rfl, rfl⟩⟩
  · intro d ht h; cases d <;> first | exact absurd rfl h | exact absurd ht (by decide)
  · exact fun _ _ _ => rfl

/-- The Ready state, and a run from it, for `ReadyImmutable`. -/
theorem witness_ReadyImmutable :
    ready.fsm = .ready ∧ ready.Positioned ∧ ready.SwitchOwned ∧ ready.BroughtUp ∧
      ∃ t, Sys2Proof.core.run 1 { ready with schedule := [.host (.write 0#32 4 0x60000005#32)] } = .next t ∧ t.busy = true := by
  refine ⟨rfl, positioned_of_idle rfl rfl rfl rfl rfl (.inr (.inl rfl)), ?_, ?_, _, rfl, rfl⟩
  · intro d ht h; cases d <;> first | exact absurd rfl h | exact absurd ht (by decide)
  · refine ⟨fun _ => by decide, fun _ => by decide, fun _ => by decide, fun d _ => ?_, fun _ => by decide⟩
    cases d <;> decide

theorem witness_ReachableInvariants :
    Config.defaultParams.ok = true ∧
      ∃ t, Sys2Proof.core.run 2 (State.powerOn Config.defaultParams false [.host (.write 0#32 4 0#32), .engine]) = .next t ∧
        t.done = true :=
  ⟨by decide, _, rfl, rfl⟩

theorem witness_PllCfgCompletes :
    crystal.fsm = .powerOnReset ∧ crystal.osc.enable = true ∧ crystal.osc.stable = true ∧ 0 < crystal.params.xtalHz ∧
      (given crystal 1500000000#32 0#32).pllRejection .sys 1#6 6#3 2#3 ((given crystal 1500000000#32 0#32).xr 0) = none := by
  decide

theorem witness_DivApplyCompletes :
    let s := given locked 48000000#32 46875#32
    (4#3).toNat = Dom.rtc.index ∧ Dom.rtc.twoStage = false ∧ s.fsm = .powerOnReset ∧ (s.dom .rtc).enable = false ∧
      (2#3).toNat ≤ 3 ∧ s.auxReady 2#3 = true ∧ divisorRejection (s.xr 0).toNat (s.xr 1) = none := by decide

theorem witness_FcMeasureCompletes :
    ∀ src ∈ [1#8, 10#8], let s := given ready 12000#32 0#32
      s.fsm = .ready ∧ src ≠ 0#8 ∧ src.toNat ≤ 10 ∧ windowOf (s.xr 0) s.params.fcIntervalFixed ≠ 0 ∧
      s.fc.running = false ∧ (s.fOut .ref).pos = true := by decide

end Sys2Proof.Tests
end

section
/-! The position of a command (10_state.md R12): what a micro-operation does to the operation in flight, and when a
state is at its latched command. -/

namespace Sys2Proof.Machine

/-! ### The operation of a command stays its operation while it runs -/

/-- The plan's operation depends on the parameters and the description records only (46_bringup_sequencer.md R186). -/
theorem State.planOp_congr {s u : State} (params : u.params = s.params) (oscFreq : u.oscFreq = s.oscFreq)
    (outHz : ∀ p, (u.pll p).outHz = (s.pll p).outHz) (hz : ∀ d, (u.dom d).hz = (s.dom d).hz) (v : Bool) (k : Nat) :
    u.planOp v k = s.planOp v k := by
  have src : ∀ d pl, u.planSrcHz d pl = s.planSrcHz d pl := fun d pl => by
    simp only [State.planSrcHz, params, oscFreq, outHz, hz]
  simp only [State.planOp, State.planDiv, State.planFc, params, hz, src]

theorem State.opOf_congr {s u : State} (x : u.x = s.x) (sub : u.sub = s.sub) (params : u.params = s.params)
    (oscFreq : u.oscFreq = s.oscFreq) (outHz : ∀ p, (u.pll p).outHz = (s.pll p).outHz)
    (hz : ∀ d, (u.dom d).hz = (s.dom d).hz) (i : Instr) : u.opOf i = s.opOf i := by
  cases i <;> simp only [State.opOf, State.xr, x, sub, State.planOp_congr params oscFreq outHz hz]

/-- The only OSC_START of the plan is sub-operation 2. -/
theorem State.planOp_osc {s : State} {v : Bool} {k : Nat} {f : Word} (h : s.planOp v k = some (.osc f)) : k = 2 := by
  unfold State.planOp at h
  split at h
  case h_3 => rfl
  case h_13 =>
    split at h
    · split at h <;> simp [State.planFc] at h
    · cases h
  all_goals simp [planPll, State.planDiv] at h

theorem Op.eq_osc_of_sameKind {o : Op} {f : Word} {delay : BitVec 16} (h : o.sameKind (.osc f delay) = true) :
    ∃ f', o = .osc f' := by
  cases o <;> first | exact ⟨_, rfl⟩ | cases h

/-- A micro-operation leaves the operation of its command: the records it depends on are written by the last
micro-operation, but for OSC_FREQ, on which OSC_START does not depend. -/
theorem Ran.opOf_eq {s u : State} {i : Instr} {o : Op} {k : Nat} (r : Ran s s.work k (.cont u))
    (op : s.opOf i = some o) (kind : o.sameKind s.work = true) : u.opOf i = some o := by
  by_cases hw : ∃ f delay, s.work = .osc f delay
  · obtain ⟨f, delay, hw⟩ := hw
    obtain ⟨f', rfl⟩ := Op.eq_osc_of_sameKind (hw ▸ kind)
    rw [← op]
    cases i with
    | bringup v =>
      have hk := State.planOp_osc op
      simp only [State.opOf, r.sub_eq, hk, State.planOp, r.params_eq]
    | _ => simp only [State.opOf, State.xr, r.x_eq]
  · rw [← op]
    exact State.opOf_congr r.x_eq r.sub_eq r.params_eq (r.oscFreq_eq fun f delay e => hw ⟨f, delay, e⟩)
      (fun p => (r.pllRecords_eq p).2) (fun d => (r.domRecords_eq d).1) i

/-! ### The position inside an operation -/

/-- A passed validation keeps the operands of its operation. -/
theorem Accepted.latched {s : State} {o : Op} {w : Work} (h : Accepted s o w) : o.latchedIn w := by
  cases h with
  | mux isDom two legal ready => exact ⟨isDom, two, rfl, rfl⟩
  | div isDom legal divisor ready => exact ⟨isDom, rfl, rfl, rfl⟩
  | pll ok => exact ⟨rfl, rfl, rfl, rfl⟩
  | fc low high window => exact ⟨rfl, rfl⟩
  | _ => rfl

/-- The last micro-operation of the operation whose hidden state is `w`. -/
def Work.lastStep : Work → Nat
  | .idle => 0
  | .hold _ => 2
  | .release _ => 3
  | .osc _ _ => 5
  | .pll _ _ _ _ _ _ => 9
  | .mux _ _ _ _ => 6
  | .div _ _ _ _ _ _ _ _ _ => 8
  | .fc _ _ => 8

theorem Op.lastStep_eq {o : Op} {w : Work} (kind : o.sameKind w = true) : o.lastStep = w.lastStep := by
  cases o <;> cases w <;> first | rfl | cases kind

theorem Op.sameKind_of_latched {o : Op} {w : Work} (h : o.latchedIn w) : o.sameKind w = true := by
  cases o <;> cases w <;> first | rfl | exact h.elim

theorem Op.lastStep_pos (o : Op) : 1 ≤ o.lastStep := by cases o <;> simp [Op.lastStep]

theorem Op.lastStep_le (o : Op) : o.lastStep ≤ 9 := by cases o <;> simp [Op.lastStep]

/-- The first micro-operation leaves its operation at the second. -/
theorem Accepted.inFlight {s : State} {o : Op} {w : Work} (h : Accepted s o w) : o.inFlight ((s.keep w).goto 1#8) :=
  .inr ⟨by simp, o.lastStep_pos, h.latched⟩

/-- A later micro-operation leaves the hidden state, but for what a switch sequence has done and has left to do. -/
theorem Ran.work_cases {s u : State} {k : Nat} (r : Ran s s.work k (.cont u)) :
    u.work = s.work ∨
    (∃ d main auxsrc stepped stepped',
      s.work = .mux d main auxsrc stepped ∧ u.work = .mux d main auxsrc stepped') ∨
    (∃ d main auxsrc src div old stepped settle left stepped' settle' left',
      s.work = .div d main auxsrc src div old stepped settle left ∧
        u.work = .div d main auxsrc src div old stepped' settle' left') := by
  generalize hw : s.work = w at r
  cases r
  case mux1Write => exact .inr (.inl ⟨_, _, _, _, _, rfl, rfl⟩)
  case div2Write | div2Gated | div3Settling =>
    exact .inr (.inr ⟨_, _, _, _, _, _, _, _, _, _, _, _, rfl, rfl⟩)
  all_goals exact .inl (by simp [hw, State.writeMain, State.writeAuxsrc, State.writeEnable])

/-- A later micro-operation keeps the operands. -/
theorem Ran.latched {s u : State} {o : Op} {k : Nat} (r : Ran s s.work k (.cont u)) (h : o.latchedIn s.work) :
    o.latchedIn u.work := by
  rcases r.work_cases with same | ⟨_, _, _, _, _, old, new⟩ | ⟨_, _, _, _, _, _, _, _, _, _, _, _, old, new⟩
  · exact same ▸ h
  all_goals
    rw [new]
    rw [old] at h
    cases o <;> exact h

/-- The micro-operation after a Wait is one of the operation. -/
theorem waitAt_lt_lastStep {w : Work} {k : Nat} {id : WaitId} {r : Reg} {pred : Word → Bool} {next : BitVec 8}
    (h : waitAt w k = some (id, r, pred, next)) : k < w.lastStep := by
  cases w with
  | idle => cases h
  | hold set => cases h
  | release set => obtain ⟨rfl, _⟩ := waitAt_release h; simp [Work.lastStep]
  | osc f delay => obtain ⟨rfl, _⟩ := waitAt_osc h; simp [Work.lastStep]
  | pll p refdiv pd1 pd2 fbdiv vcoHz => obtain ⟨rfl, _⟩ := waitAt_pll h; simp [Work.lastStep]
  | mux d main auxsrc stepped =>
    obtain ⟨_, _, ⟨rfl, _⟩ | ⟨rfl, _⟩⟩ := waitAt_mux h <;> simp [Work.lastStep]
  | div d main auxsrc src divisor old stepped settle left =>
    obtain ⟨_, _, _, ⟨rfl, _⟩ | ⟨rfl, _⟩⟩ := waitAt_div h <;> simp [Work.lastStep]
  | fc src refKhz =>
    obtain ⟨rfl, _⟩ | ⟨rfl, _⟩ := waitAt_fc h <;> simp [Work.lastStep]

/-- A later micro-operation stays, or moves on to the next one, which its operation has. -/
theorem Ran.step_cases {s u : State} {w : Work} {k : Nat} (r : Ran s w k (.cont u)) :
    u.step = s.step ∨ (u.step = BitVec.ofNat 8 (k + 1) ∧ k < w.lastStep) := by
  cases r
  case polled | div3Settling => exact .inl rfl
  case waited id r pred next holds at_ => exact .inr ⟨waitAt_next at_, waitAt_lt_lastStep at_⟩
  all_goals exact .inr ⟨rfl, by simp [Work.lastStep]⟩

/-- A later micro-operation leaves its operation in flight. -/
theorem Ran.inFlight {s u : State} {o : Op} (r : Ran s s.work s.step.toNat (.cont u)) (later : s.step ≠ 0#8)
    (kind : o.sameKind s.work = true) (h : o.inFlight s) : o.inFlight u := by
  rcases h with ⟨start, _⟩ | ⟨_, bound, latched⟩
  · exact absurd start later
  right
  rcases r.step_cases with same | ⟨next, inside⟩
  · exact ⟨same ▸ later, same ▸ bound, r.latched latched⟩
  · rw [← Op.lastStep_eq kind] at inside
    have := o.lastStep_le
    have toNat : u.step.toNat = s.step.toNat + 1 := by
      rw [next, BitVec.toNat_ofNat]; exact Nat.mod_eq_of_lt (by omega)
    refine ⟨fun start => ?_, by omega, r.latched latched⟩
    simp [start] at toNat

/-- What an operation that goes on has done: its first micro-operation has passed the validation, or a later one ran. -/
theorem runOp_cont {o : Op} {s u : State} (h : runOp o s = .cont u) :
    (s.step = 0#8 ∧ ∃ w, Accepted s o w ∧ u = (s.keep w).goto 1#8) ∨
    (s.step ≠ 0#8 ∧ o.sameKind s.work = true ∧ Ran s s.work s.step.toNat (.cont u)) := by
  rcases runOp_cases o s with ⟨_, _, e⟩ | ⟨hs, w, ha, e⟩ | ⟨hs, hk, hr⟩ | ⟨_, _, e⟩ <;> rw [h] at *
  · cases e
  · cases e; exact .inl ⟨hs, w, ha, rfl⟩
  · exact .inr ⟨hs, hk, hr⟩
  · cases e

/-- An operation in flight that goes on stays in flight, and stays its command's operation. -/
theorem runOp_cont_inFlight {o : Op} {s u : State} {i : Instr} (h : runOp o s = .cont u) (op : s.opOf i = some o)
    (fl : o.inFlight s) : u.opOf i = some o ∧ o.inFlight u ∧
      u.fsm = s.fsm ∧ u.sub = s.sub ∧ u.busy = s.busy ∧ u.cmd = s.cmd := by
  rcases runOp_cont h with ⟨_, w, acc, rfl⟩ | ⟨later, kind, ran⟩
  · exact ⟨op, acc.inFlight, rfl, rfl, rfl, rfl⟩
  · exact ⟨ran.opOf_eq op kind, ran.inFlight later kind fl, ran.fsm_eq, ran.sub_eq, ran.busy_eq, ran.cmd_eq⟩

/-! ### The position of a command -/

/-- The state gate of the command is behind it: what 30_encoding.md R87 and 46_bringup_sequencer.md R187 then say of FSM
and SUB. -/
def State.pastGate (s : State) (i : Instr) : Prop :=
  if isBringup i then s.fsm = fsmDuring s.sub.toNat
  else s.sub = 0#8 ∧ (s.fsm = .powerOnReset ∨ (s.fsm = .ready ∧ acceptedInReady i = true))

theorem isBringup_iff {i : Instr} : isBringup i = true ↔ ∃ v, i = .bringup v := by
  cases i <;> simp [isBringup]

theorem State.atInstr_command {s : State} {i : Instr} (own : isBringup i = false) :
    s.atInstr i ↔ s.justIssued ∨ s.inCommand i := by
  cases i <;> first | exact Iff.rfl | cases own

theorem State.atInstr_of_justIssued {s : State} {i : Instr} (h : s.justIssued) : s.atInstr i := by
  cases i <;> exact .inl h

/-- A command at its position whose gate lets it pass is past its gate. -/
theorem State.atInstr.pastGate {s : State} {i : Instr} (h : s.atInstr i) (gate : s.gatePassed i) : s.pastGate i := by
  unfold State.pastGate
  cases own : isBringup i with
  | true =>
    obtain ⟨v, rfl⟩ := isBringup_iff.mp own
    rcases h with ⟨sub, step, _, _⟩ | ⟨during, _⟩
    · rcases gate (by simp [State.atGate, isBringup, sub, step]) with por | ⟨_, accepted⟩
      · simpa [sub, fsmDuring] using por
      · cases accepted
    · exact during
  | false =>
    rcases (State.atInstr_command own).mp h with ⟨sub, step, _, _⟩ | ⟨sub, fsm, _⟩
    · exact ⟨sub, gate (by simp [State.atGate, own, step])⟩
    · exact ⟨sub, fsm⟩

theorem State.gatePassed_of_later {s : State} {i : Instr} (later : s.step ≠ 0#8) : s.gatePassed i := by
  intro due
  unfold State.atGate at due
  split at due <;> simp [later] at due

/-- A command at its position has its operation in flight. -/
theorem State.atInstr.inFlight {s : State} {i : Instr} {o : Op} (h : s.atInstr i) (op : s.opOf i = some o) :
    o.inFlight s := by
  have issued : s.justIssued → o.inFlight s := fun ⟨_, step, work, _⟩ => .inl ⟨step, work⟩
  cases own : isBringup i with
  | true =>
    obtain ⟨v, rfl⟩ := isBringup_iff.mp own
    rcases h with h | ⟨_, h⟩
    · exact issued h
    · simpa [show s.planOp v _ = some o from op] using h
  | false =>
    rcases (State.atInstr_command own).mp h with h | ⟨_, _, h⟩
    · exact issued h
    · simpa [op] using h

/-- Past its gate and with its operation in flight, a command is at its position. -/
theorem State.atInstr_of_inFlight {s : State} {i : Instr} {o : Op} (past : s.pastGate i) (op : s.opOf i = some o)
    (fl : o.inFlight s) : s.atInstr i := by
  unfold State.pastGate at past
  cases own : isBringup i with
  | true =>
    obtain ⟨v, rfl⟩ := isBringup_iff.mp own
    refine .inr ⟨past, ?_⟩
    simpa [show s.planOp v _ = some o from op] using fl
  | false =>
    rw [own] at past
    exact (State.atInstr_command own).mpr (.inr ⟨past.1, past.2, by simpa [op] using fl⟩)

theorem fsmDuring_ne_failed (k : Nat) : fsmDuring k ≠ .failed := by
  unfold fsmDuring fsmAfter; repeat' split <;> simp

theorem fsmDuring_ne_ready (k : Nat) : fsmDuring k ≠ .ready := by
  unfold fsmDuring fsmAfter; repeat' split <;> simp

theorem fsmAfter_ne_failed (k : Nat) : fsmAfter k ≠ .failed := fsmDuring_ne_failed (k + 1)

/-- A command at its position is not in the Failed state. -/
theorem State.pastGate.ne_failed {s : State} {i : Instr} (h : s.pastGate i) : s.fsm ≠ .failed := by
  unfold State.pastGate at h
  split at h
  · exact h ▸ fsmDuring_ne_failed _
  · rcases h.2 with e | ⟨e, _⟩ <;> simp [e]

/-! ### Positioned states -/

/-- The position is legal in every state that ends a command with FSM at rest. -/
theorem State.positioned_of_ended {t : State} (busy : t.busy = false) (sub : t.sub = 0#8) (step : t.step = 0#8)
    (poll : t.pollcnt = 0#32) (work : t.work = .idle)
    (fsm : t.fsm = .powerOnReset ∨ t.fsm = .ready ∨ t.fsm = .failed) : t.Positioned where
  idle _ := ⟨sub, step, poll, work⟩
  idleFsm _ := fsm
  busyFsm h := by simp [busy] at h
  busyAt h := by simp [busy] at h

/-- The position is legal in every state that is at its latched command. -/
theorem State.positioned_of_atInstr {t : State} {i : Instr} (busy : t.busy = true) (alive : t.fsm ≠ .failed)
    (good : decode t.fetch = .ok i) (h : t.atInstr i) : t.Positioned where
  idle e := by simp [busy] at e
  idleFsm e := by simp [busy] at e
  busyFsm _ := alive
  busyAt _ := by simpa [good] using h

theorem State.Positioned.atInstr {s : State} {i : Instr} (h : s.Positioned) (busy : s.busy = true)
    (good : decode s.fetch = .ok i) : s.atInstr i := by
  simpa [good] using h.busyAt busy

/-- A just issued command is at rest in PowerOnReset or Ready. -/
theorem State.Positioned.justIssued {s : State} {e : Illegal} (h : s.Positioned) (busy : s.busy = true)
    (bad : decode s.fetch = .error e) : s.justIssued := by
  simpa [bad] using h.busyAt busy

theorem State.justIssued_congr {s t : State} (sub : t.sub = s.sub) (step : t.step = s.step) (work : t.work = s.work)
    (fsm : t.fsm = s.fsm) : t.justIssued ↔ s.justIssued := by
  simp only [State.justIssued, sub, step, work, fsm]

theorem Op.inFlight_congr {s t : State} (o : Op) (step : t.step = s.step) (work : t.work = s.work) :
    o.inFlight t ↔ o.inFlight s := by
  simp only [Op.inFlight, step, work]

theorem State.atInstr_congr {s t : State} {i : Instr} (sub : t.sub = s.sub) (step : t.step = s.step)
    (work : t.work = s.work) (fsm : t.fsm = s.fsm) (op : t.opOf i = s.opOf i) : t.atInstr i ↔ s.atInstr i := by
  cases own : isBringup i with
  | true =>
    obtain ⟨v, rfl⟩ := isBringup_iff.mp own
    have plan : t.planOp v s.sub.toNat = s.planOp v s.sub.toNat := by simpa only [State.opOf, sub] using op
    simp only [State.atInstr, State.justIssued_congr sub step work fsm, State.inBringup, fsm, sub, plan, step, work,
      Op.inFlight_congr _ step work]
  | false =>
    simp only [State.atInstr_command own, State.justIssued_congr sub step work fsm, State.inCommand, fsm, sub, op, step,
      work, Op.inFlight_congr _ step work]

/-- A change of what the position does not depend on keeps it legal. -/
theorem State.Positioned.congr {s t : State} (h : s.Positioned) (busy : t.busy = s.busy) (fsm : t.fsm = s.fsm)
    (sub : t.sub = s.sub) (step : t.step = s.step) (poll : t.pollcnt = s.pollcnt) (work : t.work = s.work)
    (cmd : t.cmd = s.cmd) (op : s.busy = true → ∀ i, t.opOf i = s.opOf i) : t.Positioned where
  idle e := by rw [sub, step, poll, work]; exact h.idle (busy ▸ e)
  idleFsm e := by rw [fsm]; exact h.idleFsm (busy ▸ e)
  busyFsm e := by rw [fsm]; exact h.busyFsm (busy ▸ e)
  busyAt e := by
    rw [busy] at e
    have at_ := h.busyAt e
    change match decode t.cmd with
      | .ok i => t.atInstr i
      | .error _ => t.justIssued
    rw [cmd]
    change match decode s.cmd with
      | .ok i => s.atInstr i
      | .error _ => s.justIssued at at_
    split at at_
    · exact (State.atInstr_congr sub step work fsm (op e _)).mpr at_
    · exact (State.justIssued_congr sub step work fsm).mpr at_

end Sys2Proof.Machine
end


section
/-! The position through a step: it stays legal (O45), no step stops (O46), and FSM is linear (O54). -/

namespace Sys2Proof.Machine

/-! ### The last micro-operation -/

section
variable {s u : State} {w : Work} {k : Nat} {results : List (Fin 8 × Word)}

theorem Ran.finish_fsm (r : Ran s w k (.finish u results)) : u.fsm = s.fsm := by cases r <;> rfl
theorem Ran.finish_busy (r : Ran s w k (.finish u results)) : u.busy = s.busy := by cases r <;> rfl
theorem Ran.finish_cmd (r : Ran s w k (.finish u results)) : u.cmd = s.cmd := by cases r <;> rfl

end

/-! ### The end of a sub-operation -/

/-- The sub-operations of BRINGUP: 0 to 11, and with verification 12 to 17 (46_bringup_sequencer.md R187). -/
theorem State.planOp_isSome (s : State) (v : Bool) (k : Nat) :
    (s.planOp v k).isSome = true ↔ k ≤ 11 ∨ (v = true ∧ k ≤ 17) := by
  by_cases small : k ≤ 17
  · interval_cases k <;> simp [State.planOp, Dom.ofIndex]
  · obtain ⟨n, rfl⟩ : ∃ n, k = n + 18 := ⟨k - 18, by omega⟩
    simp [State.planOp, Dom.ofIndex]

theorem State.nextSub_of_lt (s : State) {k : Nat} (h : k < 17) :
    (s.nextSub k).fsm = fsmAfter k ∧ (s.nextSub k).sub.toNat = k + 1 ∧ (s.nextSub k).busy = s.busy := by
  have : k ≠ 17 := by omega
  simp only [State.nextSub, this, if_false, State.recordMeasurement_busy, BitVec.toNat_ofNat]
  exact ⟨trivial, Nat.mod_eq_of_lt (by omega), trivial⟩

theorem State.nextSub_last (s : State) : s.nextSub 17 = (s.recordMeasurement 17).bringupEnd := rfl

/-- The end of BRINGUP leaves the engine at rest in Ready. -/
theorem State.bringupEnd_positioned (s : State) : s.bringupEnd.Positioned :=
  State.positioned_of_ended rfl rfl rfl rfl rfl (.inr (.inl rfl))

/-- The end of a sub-operation leaves BRINGUP at the next one, or at rest. -/
theorem State.nextSub_positioned {s u : State} {v : Bool} {o : Op} (op : s.planOp v s.sub.toNat = some o)
    (busy : u.busy = true) (good : decode u.fetch = .ok (.bringup v)) : (u.nextSub s.sub.toNat).Positioned := by
  have here := (s.planOp_isSome v s.sub.toNat).mp (by simp [op])
  by_cases last : s.sub.toNat = 17
  · rw [last, State.nextSub_last]
    exact State.bringupEnd_positioned _
  · obtain ⟨fsm, sub, busy'⟩ := u.nextSub_of_lt (k := s.sub.toNat) (by omega)
    refine State.positioned_of_atInstr (busy'.trans busy) (fsm ▸ fsmAfter_ne_failed _) (i := .bringup v)
      (by simpa [State.fetch] using good) (.inr ⟨by rw [sub, fsm]; rfl, ?_⟩)
    rw [sub]
    have there := (u.nextSub s.sub.toNat).planOp_isSome v (s.sub.toNat + 1)
    cases plan : (u.nextSub s.sub.toNat).planOp v (s.sub.toNat + 1) with
    | some o' => exact .inl ⟨by simp, by simp⟩
    | none =>
      simp only [plan, Option.isSome_none, Bool.false_eq_true, false_iff, not_or, not_and] at there
      have plain : v = false := by
        cases v
        · rfl
        · have := there.2 rfl
          omega
      simp only [plain, Bool.false_eq_true, false_and, or_false] at here
      exact ⟨plain, BitVec.eq_of_toNat_eq (sub.trans (by simp; omega)), by simp, by simp⟩

/-! ### The position stays legal -/

/-- What the engine's step of a legal command leaves is positioned. -/
theorem Executed.positioned {s t : State} {i : Instr} (h : Executed s i t) (busy : s.busy = true)
    (good : decode s.fetch = .ok i) (at_ : s.atInstr i) : t.Positioned := by
  have rest : isBringup i = false → s.gatePassed i → s.fsm = .powerOnReset ∨ s.fsm = .ready ∨ s.fsm = .failed := by
    intro own gate
    have past := at_.pastGate gate
    simp only [State.pastGate, own] at past
    exact past.2.imp id fun h => .inl h.1
  cases h with
  | nop start gate => exact State.positioned_of_ended rfl rfl rfl rfl rfl (rest rfl gate)
  | locked due ready refused => exact State.positioned_of_ended rfl rfl rfl rfl rfl (.inr (.inl ready))
  | cont op gate run =>
    have past := at_.pastGate gate
    obtain ⟨op', fl, fsm, sub, busy', cmd⟩ := runOp_cont_inFlight run op (at_.inFlight op)
    have past' : t.pastGate i := by simpa only [State.pastGate, fsm, sub] using past
    refine State.positioned_of_atInstr (busy'.trans busy) past'.ne_failed ?_ (State.atInstr_of_inFlight past' op' fl)
    rw [State.fetch, cmd]
    exact good
  | rejected own op gate start run => exact State.positioned_of_ended rfl rfl rfl rfl rfl (rest own gate)
  | finished own op later kind ran =>
    refine State.positioned_of_ended rfl rfl rfl rfl rfl ?_
    simpa [ran.finish_fsm] using rest own (State.gatePassed_of_later later)
  | timedOut own op later kind ran => exact State.positioned_of_ended rfl rfl rfl rfl rfl (.inr (.inr rfl))
  | subFinished op later kind ran =>
    refine State.nextSub_positioned op (ran.finish_busy.trans busy) ?_
    rw [State.fetch, ran.finish_cmd]
    exact good
  | subRejected op gate start run => exact State.positioned_of_ended rfl rfl rfl rfl rfl (.inr (.inr rfl))
  | subTimedOut op later kind ran => exact State.positioned_of_ended rfl rfl rfl rfl rfl (.inr (.inr rfl))
  | bringupEnd atEnd start => exact State.bringupEnd_positioned s

/-- What a step of the environment leaves (10_state.md R50 to R55). -/
inductive Drifted (s : State) : State → Prop where
  | nothing : Drifted s s
  | resetDone (p : Fin 32) (can : s.canResetDone p = true) :
      Drifted s { s with rstDone := s.rstDone ||| (1#32 <<< p.val) }
  | oscStable (can : s.canOscStable = true) : Drifted s { s with osc := { s.osc with stable := true } }
  | pllLock (p : PllId) (can : s.canPllLock p = true) : Drifted s (s.setPll p { s.pll p with lock := true })
  | muxFlip (d : Dom) (can : s.canMuxFlip d = true) :
      Drifted s (s.setDom d { s.dom d with selected := (s.dom d).main })
  | fcDone (edges : Nat) (can : s.canFcDone = true) : Drifted s { s with fc := s.fc.finish edges }

theorem envStep_inv (s : State) (e : EnvStep) : Drifted s (s.envStep e) := by
  cases e <;> simp only [State.envStep] <;> split
  case resetDone.isTrue h => exact .resetDone _ h
  case oscStable.isTrue h => exact .oscStable h
  case pllLock.isTrue h => exact .pllLock _ h
  case muxFlip.isTrue h => exact .muxFlip _ h
  case fcDone.isTrue h => exact .fcDone _ h
  all_goals exact .nothing

section
variable {s u : State}

theorem Drifted.pllRecords_eq (r : Drifted s u) (q : PllId) :
    (u.pll q).vcoHz = (s.pll q).vcoHz ∧ (u.pll q).outHz = (s.pll q).outHz := by
  cases r with
  | pllLock p => rw [State.pll_setPll]; split <;> simp_all
  | _ => exact ⟨rfl, rfl⟩

theorem Drifted.domRecords_eq (r : Drifted s u) (c : Dom) :
    (u.dom c).hz = (s.dom c).hz ∧ (u.dom c).measKhz = (s.dom c).measKhz := by
  cases r with
  | muxFlip d => exact State.setDom_records (v := { s.dom d with selected := (s.dom d).main }) rfl rfl c
  | _ => exact ⟨rfl, rfl⟩

theorem Drifted.busy_eq (r : Drifted s u) : u.busy = s.busy := by cases r <;> rfl
theorem Drifted.fsm_eq (r : Drifted s u) : u.fsm = s.fsm := by cases r <;> rfl
theorem Drifted.sub_eq (r : Drifted s u) : u.sub = s.sub := by cases r <;> rfl
theorem Drifted.step_eq (r : Drifted s u) : u.step = s.step := by cases r <;> rfl
theorem Drifted.pollcnt_eq (r : Drifted s u) : u.pollcnt = s.pollcnt := by cases r <;> rfl
theorem Drifted.work_eq (r : Drifted s u) : u.work = s.work := by cases r <;> rfl
theorem Drifted.cmd_eq (r : Drifted s u) : u.cmd = s.cmd := by cases r <;> rfl
theorem Drifted.params_eq (r : Drifted s u) : u.params = s.params := by cases r <;> rfl

/-- The environment writes no operand and no description record. -/
theorem Drifted.opOf_eq (r : Drifted s u) (i : Instr) : u.opOf i = s.opOf i := by
  have x : u.x = s.x := by cases r <;> rfl
  have oscFreq : u.oscFreq = s.oscFreq := by cases r <;> rfl
  exact State.opOf_congr x r.sub_eq r.params_eq oscFreq (fun q => (r.pllRecords_eq q).2)
    (fun c => (r.domRecords_eq c).1) i

theorem Drifted.positioned (r : Drifted s u) (h : s.Positioned) : u.Positioned :=
  h.congr r.busy_eq r.fsm_eq r.sub_eq r.step_eq r.pollcnt_eq r.work_eq r.cmd_eq fun _ => r.opOf_eq

end

theorem State.acceptsWrites_iff (s : State) : s.acceptsWrites = true ↔ s.busy = false ∧ s.fsm ≠ .failed := by
  simp [State.acceptsWrites]

/-- The issue of a command puts the engine at the command's first micro-operation. -/
theorem State.Positioned.issue {s : State} (h : s.Positioned) (accepts : s.acceptsWrites = true) (w : Word) :
    (s.issue w).Positioned := by
  obtain ⟨idle, alive⟩ := s.acceptsWrites_iff.mp accepts
  have issued : (s.issue w).justIssued := by
    refine ⟨rfl, rfl, rfl, ?_⟩
    rcases h.idleFsm idle with e | e | e
    · exact .inl e
    · exact .inr e
    · exact absurd e alive
  refine ⟨fun e => by simp at e, fun e => by simp at e, fun _ => alive, fun _ => ?_⟩
  split
  · exact State.atInstr_of_justIssued issued
  · exact issued

theorem Served.positioned {s u : State} (r : Served s u) (h : s.Positioned) : u.Positioned := by
  cases r with
  | nothing => exact h
  | issued w accepts => exact h.issue accepts w
  | operand i v accepts =>
    obtain ⟨idle, _⟩ := s.acceptsWrites_iff.mp accepts
    exact h.congr rfl rfl rfl rfl rfl rfl rfl fun busy => by simp [idle] at busy
  | limit v accepts => exact h.congr rfl rfl rfl rfl rfl rfl rfl fun _ i => by cases i <;> rfl
  | dropped refuses => exact h.congr rfl rfl rfl rfl rfl rfl rfl fun _ i => by cases i <;> rfl
  | cleared => exact h.congr rfl rfl rfl rfl rfl rfl rfl fun _ i => by cases i <;> rfl

theorem Moved.positioned {s t : State} (h : Moved s t) (pos : s.Positioned) : t.Positioned := by
  cases h with
  | idle idle => exact pos
  | illegal busy alive bad =>
    obtain ⟨_, _, _, fsm⟩ := pos.justIssued busy bad
    exact State.positioned_of_ended rfl rfl rfl rfl rfl (fsm.imp id .inl)
  | executed busy alive good run => exact run.positioned busy good (pos.atInstr busy good)
  | env e => exact (envStep_inv s e).positioned pos
  | host a =>
    obtain ⟨u, b, served, e⟩ := hostAccess_inv s a
    rw [e]
    exact (served.positioned pos).congr rfl rfl rfl rfl rfl rfl rfl fun _ i => by cases i <;> rfl

theorem State.Positioned.withSchedule {s : State} (h : s.Positioned) (ms : List Move) :
    { s with schedule := ms }.Positioned :=
  h.congr rfl rfl rfl rfl rfl rfl rfl fun _ i => by cases i <;> rfl

/-- Settles O45: every move keeps the position, the engine's by the cases of `Executed`. -/
theorem positionKept : Obligations.PositionKept := fun _ _ pos h =>
  step_keeps (fun _ ms pos => pos.withSchedule ms) (fun _ _ pos moved => moved.positioned pos) pos h

/-! ### No step stops -/

theorem State.wait_ne_stray (s : State) (w : WaitId) (r : Reg) (pred : Word → Bool) (k : BitVec 8) :
    s.wait w r pred k ≠ .stray := by
  rcases s.wait_cases w r pred k with ⟨_, e⟩ | ⟨_, _, _, e⟩ | ⟨_, _, e⟩ <;> simp [e]

theorem muxM1_ne_stray (d : Dom) (main : Path) (w : Work) (k : BitVec 8) (s : State) : muxM1 d main w k s ≠ .stray := by
  unfold muxM1; split <;> simp

theorem muxM2_ne_stray (d : Dom) (stepped : Bool) (k : BitVec 8) (s : State) : muxM2 d stepped k s ≠ .stray := by
  unfold muxM2; split <;> simp [State.wait_ne_stray]

theorem muxM3_ne_stray (d : Dom) (main : Path) (auxsrc : BitVec 3) (k : BitVec 8) (s : State) :
    muxM3 d main auxsrc k s ≠ .stray := by
  cases main <;> simp [muxM3]

theorem gatedG2_ne_stray (n left : Nat) (w : Work) (k : BitVec 8) (s : State) : gatedG2 n left w k s ≠ .stray := by
  unfold gatedG2; split <;> simp

/-- Every micro-operation of DIV_APPLY from the second to the last is one of its kind of domain. -/
theorem divStep_ne_stray (d : Dom) (main : Path) (auxsrc : BitVec 3) (src : Nat) (divisor old : Word) (stepped : Bool)
    (settle left : Nat) (s : State) {k : Nat} (low : 1 ≤ k) (high : k ≤ 8) :
    divStep d main auxsrc src divisor old stepped settle left k s ≠ .stray := by
  interval_cases k <;> simp only [divStep]
  · split <;> simp
  · split <;> simp [muxM1_ne_stray, gatedG1]
  · split <;> simp [muxM2_ne_stray, gatedG2_ne_stray]
  · split <;> simp [muxM3_ne_stray, gatedG3]
  · split <;> simp [muxM4, gatedG4]
  · split <;> simp [muxM5, State.wait_ne_stray]
  · simp
  · simp

/-- Every micro-operation from the second to the last is one of the operation. -/
theorem workStep_ne_stray (s : State) {w : Work} {k : Nat} (low : 1 ≤ k) (high : k ≤ w.lastStep) :
    workStep w k s ≠ .stray := by
  cases w <;> simp only [Work.lastStep] at high
  case idle => omega
  case hold set => interval_cases k <;> simp [workStep, holdStep]
  case release set => interval_cases k <;> simp [workStep, releaseStep, State.wait_ne_stray]
  case osc f delay => interval_cases k <;> simp [workStep, oscStep, State.wait_ne_stray]
  case pll p refdiv pd1 pd2 fbdiv vcoHz => interval_cases k <;> simp [workStep, pllStep, State.wait_ne_stray]
  case mux d main auxsrc stepped =>
    interval_cases k <;>
      simp [workStep, muxStep, muxM1_ne_stray, muxM2_ne_stray, muxM3_ne_stray, muxM4, muxM5, State.wait_ne_stray]
  case div d main auxsrc src divisor old stepped settle left => exact divStep_ne_stray _ _ _ _ _ _ _ _ _ _ low high
  case fc src refKhz => interval_cases k <;> simp [workStep, fcStep, State.wait_ne_stray]

/-- An operation in flight is at one of its micro-operations. -/
theorem Op.inFlight.ne_stray {o : Op} {s : State} (h : o.inFlight s) : runOp o s ≠ .stray := by
  rcases h with ⟨start, _⟩ | ⟨later, bound, latched⟩
  · rw [runOp_start start]
    rcases startOp_cases o s with ⟨r, e⟩ | ⟨w, _, e⟩ <;> simp [e]
  · have kind := Op.sameKind_of_latched latched
    rw [runOp_later later, if_pos kind]
    refine workStep_ne_stray s ?_ (Op.lastStep_eq kind ▸ bound)
    exact Nat.pos_of_ne_zero fun zero => later (BitVec.eq_of_toNat_eq zero)

theorem State.commandStep_next (s : State) (opc : BitVec 8) (unit : BitVec 4) {m : Micro} (h : m ≠ .stray) :
    ∃ t, s.commandStep opc unit m = .next t := by
  cases m <;> first | exact ⟨_, rfl⟩ | exact absurd rfl h

theorem State.bringupStep_next (s : State) (k : Nat) (o : Op) {m : Micro} (h : m ≠ .stray) :
    ∃ t, s.bringupStep k o m = .next t := by
  cases m <;> first | exact ⟨_, rfl⟩ | exact absurd rfl h

/-- The state gate answers in PowerOnReset and in Ready. -/
theorem State.gate_next {s : State} {inReady : Bool} {opc : BitVec 8} {unit : BitVec 4}
    {run : Host.Outcome State Fault Refusal} (fsm : s.fsm = .powerOnReset ∨ s.fsm = .ready) (h : ∃ t, run = .next t) :
    ∃ t, s.gate inReady opc unit run = .next t := by
  unfold State.gate
  rcases fsm with e | e <;> simp only [e]
  · exact h
  · split
    · exact h
    · exact ⟨_, rfl⟩

/-- The micro-operation of a command of its own at its position: its operation's, or the end of NOP. -/
def State.microOf (s : State) (i : Instr) : Micro :=
  match s.opOf i with
  | some o => runOp o s
  | none => if s.step = 0#8 then .finish s [] else .stray

theorem exec_eq_command {i : Instr} (own : isBringup i = false) (s : State) :
    exec i s = s.command (acceptedInReady i) (opcode i) (unitOf i) (s.microOf i) :=
  exec_command own s

theorem State.atInstr.microOf_ne_stray {s : State} {i : Instr} (own : isBringup i = false) (h : s.atInstr i) :
    s.microOf i ≠ .stray := by
  unfold State.microOf
  cases op : s.opOf i with
  | some o => exact (h.inFlight op).ne_stray
  | none =>
    have start : s.step = 0#8 := by
      rcases (State.atInstr_command own).mp h with ⟨_, start, _⟩ | ⟨_, _, start⟩
      · exact start
      · rw [op] at start
        exact start.1
    simp [start]

/-- A command of its own answers a next state at its position. -/
theorem exec_command_next {s : State} {i : Instr} (own : isBringup i = false) (h : s.atInstr i) :
    ∃ t, exec i s = .next t := by
  have fsm : s.fsm = .powerOnReset ∨ s.fsm = .ready := by
    rcases (State.atInstr_command own).mp h with ⟨_, _, _, fsm⟩ | ⟨_, fsm, _⟩
    · exact fsm
    · exact fsm.imp id And.left
  have run := s.commandStep_next (opcode i) (unitOf i) (h.microOf_ne_stray own)
  rw [exec_eq_command own, State.command]
  split
  · exact State.gate_next fsm run
  · exact run

/-- BRINGUP answers a next state at its position. -/
theorem exec_bringup_next {s : State} {v : Bool} (h : s.atInstr (.bringup v)) : ∃ t, exec (.bringup v) s = .next t := by
  have run : ∃ t, s.bringupAt v = .next t := by
    unfold State.bringupAt
    split
    case h_1 o op => exact State.bringupStep_next _ _ _ (State.atInstr.inFlight h op).ne_stray
    case h_2 none =>
      rcases h with ⟨sub, _⟩ | ⟨_, at_⟩
      · simp [sub, State.planOp] at none
      · rw [none] at at_
        obtain ⟨plain, sub, step, _⟩ := at_
        exact ⟨_, if_pos ⟨plain, sub, step⟩⟩
  change ∃ t, execBringup v s = .next t
  unfold execBringup
  split
  case isTrue first =>
    refine State.gate_next ?_ run
    rcases h with ⟨_, _, _, fsm⟩ | ⟨fsm, _⟩
    · exact fsm
    · exact .inl (by simpa [first.1, fsmDuring] using fsm)
  case isFalse => exact run

theorem exec_next {s : State} {i : Instr} (h : s.atInstr i) : ∃ t, exec i s = .next t := by
  cases own : isBringup i with
  | true =>
    obtain ⟨v, rfl⟩ := isBringup_iff.mp own
    exact exec_bringup_next h
  | false => exact exec_command_next own h

theorem State.Positioned.move_next {s : State} (h : s.Positioned) (m : Move) : ∃ t, s.move m = .next t := by
  cases m with
  | env e => exact ⟨_, rfl⟩
  | host a => exact ⟨_, rfl⟩
  | engine =>
    change ∃ t, s.engineStep = .next t
    unfold State.engineStep
    split
    case isFalse => exact ⟨_, rfl⟩
    case isTrue active =>
      obtain ⟨busy, _⟩ := (engineActive_iff s).mp active
      split
      case h_1 i good => exact exec_next (h.atInstr busy good)
      case h_2 => exact ⟨_, rfl⟩

/-- Settles O46: a positioned engine has a micro-operation at its position, and no other move can stop. -/
theorem neverStops : Obligations.NeverStops := by
  intro s h
  unfold step State.takeMove
  split
  · exact h.move_next _
  · exact (h.withSchedule _).move_next _

/-! ### FSM is linear -/

/-- The end of a sub-operation keeps FSM or raises it by one (46_bringup_sequencer.md R188). -/
theorem fsmAfter_code (k : Nat) :
    fsmAfter k = fsmDuring k ∨ (fsmAfter k).code.toNat = (fsmDuring k).code.toNat + 1 := by
  by_cases small : k ≤ 11
  · interval_cases k <;> decide
  · obtain ⟨n, rfl⟩ : ∃ n, k = n + 12 := ⟨k - 12, by omega⟩
    exact .inl rfl

/-- What one step may make of FSM: it stays, the command in flight fails, or BRINGUP raises it by one and is not in
Ready. -/
def State.FsmStep (s t : State) : Prop :=
  t.fsm = s.fsm ∨ (s.busy = true ∧ s.fsm ≠ .failed ∧ t.fsm = .failed) ∨
    (s.busy = true ∧ (∃ v, decode s.cmd = .ok (.bringup v)) ∧ s.fsm ≠ .ready ∧ s.fsm ≠ .failed ∧
      t.fsm.code.toNat = s.fsm.code.toNat + 1)

/-- The end of sub-operation SUB is a step of FSM. -/
theorem State.nextSub_fsmStep {s u : State} {v : Bool} {o : Op} (busy : s.busy = true)
    (good : decode s.fetch = .ok (.bringup v)) (during : s.fsm = fsmDuring s.sub.toNat)
    (op : s.planOp v s.sub.toNat = some o) : s.FsmStep (u.nextSub s.sub.toNat) := by
  have raised : ∀ t : State, t.fsm.code.toNat = (fsmDuring s.sub.toNat).code.toNat + 1 → s.FsmStep t := fun t code =>
    .inr (.inr ⟨busy, ⟨v, good⟩, during ▸ fsmDuring_ne_ready _, during ▸ fsmDuring_ne_failed _, during ▸ code⟩)
  have here := (s.planOp_isSome v s.sub.toNat).mp (by simp [op])
  by_cases last : s.sub.toNat = 17
  · rw [last] at raised ⊢
    exact raised _ rfl
  · obtain ⟨fsm, _, _⟩ := u.nextSub_of_lt (k := s.sub.toNat) (by omega)
    rcases fsmAfter_code s.sub.toNat with same | up
    · exact .inl (fsm.trans (same.trans during.symm))
    · exact raised _ (fsm ▸ up)

theorem Executed.fsmStep {s t : State} {i : Instr} (h : Executed s i t) (busy : s.busy = true) (alive : s.fsm ≠ .failed)
    (good : decode s.fetch = .ok i) (at_ : s.atInstr i) : s.FsmStep t := by
  cases h with
  | nop => exact .inl rfl
  | locked => exact .inl rfl
  | cont op gate run =>
    obtain ⟨_, _, fsm, _⟩ := runOp_cont_inFlight run op (at_.inFlight op)
    exact .inl fsm
  | rejected => exact .inl rfl
  | finished own op later kind ran => exact .inl (by simp [ran.finish_fsm])
  | timedOut => exact .inr (.inl ⟨busy, alive, rfl⟩)
  | subFinished op later kind ran =>
    exact State.nextSub_fsmStep busy good (at_.pastGate (State.gatePassed_of_later later)) op
  | subRejected => exact .inr (.inl ⟨busy, alive, rfl⟩)
  | subTimedOut => exact .inr (.inl ⟨busy, alive, rfl⟩)
  | bringupEnd atEnd start =>
    have during : s.fsm = .allPeripheralsReleased := by
      simpa [State.pastGate, isBringup, atEnd, fsmDuring, fsmAfter] using
        at_.pastGate (fun due => by simp [State.atGate, isBringup, atEnd] at due)
    exact .inr (.inr ⟨busy, ⟨_, good⟩, by simp [during], by simp [during], by rw [during]; rfl⟩)

theorem Served.fsm_eq {s u : State} (r : Served s u) : u.fsm = s.fsm := by cases r <;> rfl

theorem Moved.fsmStep {s t : State} (h : Moved s t) (pos : s.Positioned) : s.FsmStep t := by
  cases h with
  | idle => exact .inl rfl
  | illegal => exact .inl rfl
  | executed busy alive good run => exact run.fsmStep busy alive good (pos.atInstr busy good)
  | env e => exact .inl (envStep_inv s e).fsm_eq
  | host a =>
    obtain ⟨u, b, served, e⟩ := hostAccess_inv s a
    exact .inl (by rw [e]; exact served.fsm_eq)

/-- Settles O54: only a Fatal, the end of a sub-operation and the end of BRINGUP write FSM. -/
theorem fsmLinear : Obligations.FsmLinear := by
  intro s t pos h
  obtain ⟨ms, moved⟩ := step_inv h
  rcases moved.fsmStep (pos.withSchedule ms) with same | ⟨busy, alive, failed⟩ | ⟨busy, bringup, notReady, alive, up⟩
  · exact ⟨.inl same, fun e => same.trans e, fun e => .inl (same.trans e)⟩
  · exact ⟨.inr (.inl ⟨busy, failed⟩), fun e => absurd e alive, fun _ => .inr failed⟩
  · exact ⟨.inr (.inr ⟨busy, bringup, up⟩), fun e => absurd e alive, fun e => absurd e notReady⟩

end Sys2Proof.Machine
end


section
/-! What a step does to the control registers, said once (`Controlled`), and the field ranges, the reset lines and
POLLCNT (O47). -/

namespace Sys2Proof.Machine

/-! ### The banks after a RegWrite -/

section
variable (s : State) (d e : Dom) (p q : PllId) (v : Word)

@[simp] theorem State.dom_writeMain (m : Path) :
    (s.writeMain d m).dom e =
      if e = d then { s.dom d with main := if d.twoStage then m else (s.dom d).main } else s.dom e := by
  rw [State.writeMain_eq, State.dom_traced, State.dom_setDom]

@[simp] theorem State.dom_writeAuxsrc (a : BitVec 3) :
    (s.writeAuxsrc d a).dom e = if e = d then { s.dom d with auxsrc := a } else s.dom e := by
  rw [State.writeAuxsrc_eq, State.dom_traced, State.dom_setDom]

@[simp] theorem State.dom_writeEnable (b : Bool) :
    (s.writeEnable d b).dom e =
      if e = d then { s.dom d with enable := if d.twoStage then (s.dom d).enable else b } else s.dom e := by
  rw [State.writeEnable_eq, State.dom_traced, State.dom_setDom]

@[simp] theorem State.dom_regWrite_clkDiv :
    (s.regWrite (.clkDiv d) v).dom e = if e = d then { s.dom d with div := v } else s.dom e := by
  rw [State.regWrite_clkDiv, State.dom_traced, State.dom_setDom]

@[simp] theorem State.pll_regWrite_pllCs (refdiv : BitVec 6) :
    (s.regWrite (.pllCs p) (refdiv.setWidth 32)).pll q = if q = p then { s.pll p with refdiv := refdiv } else s.pll q := by
  rw [State.regWrite_pllCs, State.pll_traced, State.pll_setPll]

@[simp] theorem State.pll_regWrite_pllPwr :
    (s.regWrite (.pllPwr p) v).pll q = if q = p then (s.pll p).writePwr v else s.pll q := by
  rw [State.regWrite_pllPwr, State.pll_traced, State.pll_setPll]

@[simp] theorem State.pll_regWrite_pllFbdiv :
    (s.regWrite (.pllFbdiv p) v).pll q = if q = p then (s.pll p).writeFbdiv v else s.pll q := by
  rw [State.regWrite_pllFbdiv, State.pll_traced, State.pll_setPll]

@[simp] theorem State.pll_regWrite_pllPrim (pd1 pd2 : BitVec 3) :
    (s.regWrite (.pllPrim p) (0#25 ++ pd2 ++ 0#1 ++ pd1)).pll q =
      if q = p then { s.pll p with postdiv1 := pd1, postdiv2 := pd2 } else s.pll q := by
  rw [State.regWrite_pllPrim, State.pll_traced, State.pll_setPll]

end

/-! ### What a micro-operation writes to a domain -/

/-- `Rewrites s w k d v`: micro-operation `k` of the operation whose hidden state is `w` turns the registers of domain `d`
into `v` (43_clock_mux.md R142, 44_clock_divider.md R152, R153). -/
inductive Rewrites (s : State) : Work → Nat → Dom → Domain → Prop where
  | muxBack {d main auxsrc stepped} :
      Rewrites s (.mux d main auxsrc stepped) 1 d
        { s.dom d with main := if d.twoStage then .reference else (s.dom d).main }
  | muxSource {d auxsrc stepped} :
      Rewrites s (.mux d .auxiliary auxsrc stepped) 3 d { s.dom d with auxsrc := auxsrc }
  | muxMain {d main auxsrc stepped} :
      Rewrites s (.mux d main auxsrc stepped) 4 d { s.dom d with main := if d.twoStage then main else (s.dom d).main }
  | divisor {d main auxsrc src div old stepped settle left k} :
      Rewrites s (.div d main auxsrc src div old stepped settle left) k d { s.dom d with div := div }
  | divBack {d main auxsrc src div old stepped settle left} (two : d.twoStage = true) :
      Rewrites s (.div d main auxsrc src div old stepped settle left) 2 d { s.dom d with main := .reference }
  | divOff {d main auxsrc src div old stepped settle left} (gated : d.twoStage = false) :
      Rewrites s (.div d main auxsrc src div old stepped settle left) 2 d { s.dom d with enable := false }
  | divSource {d auxsrc src div old stepped settle left} (two : d.twoStage = true) :
      Rewrites s (.div d .auxiliary auxsrc src div old stepped settle left) 4 d { s.dom d with auxsrc := auxsrc }
  | divSourceGated {d main auxsrc src div old stepped settle left} (gated : d.twoStage = false) :
      Rewrites s (.div d main auxsrc src div old stepped settle left) 4 d { s.dom d with auxsrc := auxsrc }
  | divMain {d main auxsrc src div old stepped settle left} (two : d.twoStage = true) :
      Rewrites s (.div d main auxsrc src div old stepped settle left) 5 d { s.dom d with main := main }
  | divOn {d main auxsrc src div old stepped settle left} (gated : d.twoStage = false) :
      Rewrites s (.div d main auxsrc src div old stepped settle left) 5 d { s.dom d with enable := true }

/-- A micro-operation that goes on leaves a domain alone, or writes one field of it. -/
theorem Ran.dom_cases {s u : State} {w : Work} {k : Nat} (r : Ran s w k (.cont u)) (e : Dom) :
    u.dom e = s.dom e ∨ Rewrites s w k e (u.dom e) := by
  have written : ∀ d v, Rewrites s w k d v →
      (if e = d then v else s.dom e) = s.dom e ∨ Rewrites s w k e (if e = d then v else s.dom e) := by
    intro d v hv
    split
    case isTrue h => exact .inr (h ▸ hv)
    case isFalse => exact .inl rfl
  cases w
  case mux =>
    cases r
    case mux1Write => simpa only [State.dom_goto, State.dom_keep, State.dom_writeMain] using written _ _ .muxBack
    case mux3Write => simpa only [State.dom_goto, State.dom_writeAuxsrc] using written _ _ .muxSource
    case mux4 => simpa only [State.dom_goto, State.dom_writeMain] using written _ _ .muxMain
    all_goals exact .inl rfl
  case div =>
    cases r
    case div1Write | div7 => simpa only [State.dom_goto, State.dom_regWrite_clkDiv] using written _ _ .divisor
    case div2Write two _ =>
      simpa only [State.dom_goto, State.dom_keep, State.dom_writeMain, two, if_true] using written _ _ (.divBack two)
    case div2Gated gated =>
      simpa only [State.dom_goto, State.dom_keep, State.dom_writeEnable, gated, Bool.false_eq_true, if_false] using
        written _ _ (.divOff gated)
    case div4Write two => simpa only [State.dom_goto, State.dom_writeAuxsrc] using written _ _ (.divSource two)
    case div4Gated gated =>
      simpa only [State.dom_goto, State.dom_writeAuxsrc] using written _ _ (.divSourceGated gated)
    case div5Main two =>
      simpa only [State.dom_goto, State.dom_writeMain, two, if_true] using written _ _ (.divMain two)
    case div5Gated gated =>
      simpa only [State.dom_goto, State.dom_writeEnable, gated, Bool.false_eq_true, if_false] using
        written _ _ (.divOn gated)
    all_goals exact .inl rfl
  all_goals exact .inl (State.dom_congr (r.doms_eq (by simp) (by simp)) e)

/-! ### What no ending of a command and no host access changes -/

/-- The control registers of `t` are those of `s`; only the description records may differ, and no DOM_VALID bit is
lost (10_state.md R17). -/
structure State.SameControl (s t : State) : Prop where
  params : t.params = s.params
  osc : t.osc = s.osc
  rstCtrl : t.rstCtrl = s.rstCtrl
  rstDone : t.rstDone = s.rstDone
  pll : ∀ p, t.pll p = { s.pll p with vcoHz := (t.pll p).vcoHz, outHz := (t.pll p).outHz }
  dom : ∀ d, t.dom d =
    { s.dom d with hz := (t.dom d).hz, measKhz := (t.dom d).measKhz, valid := (t.dom d).valid }
  valid : ∀ d, (s.dom d).valid = true → (t.dom d).valid = true

theorem State.SameControl.of_banks {s t : State} (params : t.params = s.params) (osc : t.osc = s.osc)
    (rstCtrl : t.rstCtrl = s.rstCtrl) (rstDone : t.rstDone = s.rstDone) (plls : t.plls = s.plls)
    (doms : t.doms = s.doms) : s.SameControl t where
  params := params
  osc := osc
  rstCtrl := rstCtrl
  rstDone := rstDone
  pll p := by rw [State.pll_congr plls]
  dom d := by rw [State.dom_congr doms]
  valid d h := by rwa [State.dom_congr doms]

theorem State.SameControl.trans {s t u : State} (h : s.SameControl t) (g : t.SameControl u) : s.SameControl u where
  params := g.params.trans h.params
  osc := g.osc.trans h.osc
  rstCtrl := g.rstCtrl.trans h.rstCtrl
  rstDone := g.rstDone.trans h.rstDone
  pll p := by rw [g.pll p, h.pll p]
  dom d := by rw [g.dom d, h.dom d]
  valid d e := g.valid d (h.valid d e)

/-- The last micro-operation of an operation writes description records only. -/
theorem Ran.finish_sameControl {s u : State} {w : Work} {k : Nat} {results : List (Fin 8 × Word)}
    (r : Ran s w k (.finish u results)) : s.SameControl u := by
  rcases r.finish_cases with ⟨rfl, _⟩ | ⟨f, delay, _, _, rfl⟩ | ⟨p, _, _, _, _, _, _, _, rfl⟩ |
    ⟨d, _, _, _, _, _, _, _, _, _, _, rfl⟩ | ⟨_, _, _, _, rfl⟩
  · exact .of_banks rfl rfl rfl rfl rfl rfl
  · exact .of_banks rfl rfl rfl rfl rfl rfl
  · refine ⟨rfl, rfl, rfl, rfl, fun q => ?_, fun _ => rfl, fun _ => id⟩
    rw [State.pll_describePll]
    split
    case isTrue e => rw [e]
    case isFalse => rfl
  · refine ⟨rfl, rfl, rfl, rfl, fun _ => rfl, fun e => ?_, fun e => ?_⟩ <;> rw [State.dom_describeDom] <;> split
    case refine_1.isTrue h => rw [h]
    case refine_1.isFalse => rfl
    case refine_2.isTrue => exact fun _ => rfl
    case refine_2.isFalse => exact id
  · exact .of_banks rfl rfl rfl rfl rfl rfl

theorem State.nextSub_sameControl (s : State) (k : Nat) : s.SameControl (s.nextSub k) where
  params := s.nextSub_params k
  osc := s.nextSub_osc k
  rstCtrl := s.nextSub_rstCtrl k
  rstDone := s.nextSub_rstDone k
  pll p := by rw [s.pll_nextSub k]
  dom d := by rw [s.dom_nextSub k]
  valid d h := by rw [s.dom_nextSub k]; exact h

/-! ### What a step does to the control registers -/

/-- What one move leaves, as far as the control registers and the operation in flight are concerned: the first or a
later micro-operation has run, an operation has ended or a command has been issued, nothing has happened to them, or the
environment has moved. -/
inductive Controlled (s : State) : State → Prop where
  | started {o w} (busy : s.busy = true) (start : s.step = 0#8) (passed : Accepted s o w) :
      Controlled s ((s.keep w).goto 1#8)
  | ran {u} (busy : s.busy = true) (run : Ran s s.work s.step.toNat (.cont u)) : Controlled s u
  | ended {t} (same : s.SameControl t) (work : t.work = .idle) (poll : t.pollcnt = 0#32) : Controlled s t
  | kept {t} (same : s.SameControl t) (work : t.work = s.work) (step : t.step = s.step) (poll : t.pollcnt = s.pollcnt)
      (busy : t.busy = s.busy) : Controlled s t
  | drifted {t} (drift : Drifted s t) : Controlled s t

theorem Executed.controlled {s t : State} {i : Instr} (h : Executed s i t) (busy : s.busy = true) : Controlled s t := by
  cases h with
  | cont op gate run =>
    rcases runOp_cont run with ⟨start, w, passed, rfl⟩ | ⟨_, _, ran⟩
    · exact .started busy start passed
    · exact .ran busy ran
  | finished own op later kind ran =>
    exact .ended (ran.finish_sameControl.trans (.of_banks (by simp) (by simp) (by simp) (by simp) (by simp) (by simp)))
      rfl rfl
  | subFinished op later kind ran =>
    exact .ended (ran.finish_sameControl.trans (State.nextSub_sameControl _ _)) (by simp) (by simp)
  | _ => exact .ended (.of_banks rfl rfl rfl rfl rfl rfl) rfl rfl

/-- A host access changes no control register, with whatever answer of the port. -/
theorem Served.controlled {s u : State} (h : Served s u) (b : BusReply) : Controlled s { u with busReply := b } := by
  cases h with
  | issued w accepts => exact .ended (.of_banks rfl rfl rfl rfl rfl rfl) rfl rfl
  | _ => exact .kept (.of_banks rfl rfl rfl rfl rfl rfl) rfl rfl rfl rfl

theorem Moved.controlled {s t : State} (h : Moved s t) : Controlled s t := by
  cases h with
  | idle => exact .kept (.of_banks rfl rfl rfl rfl rfl rfl) rfl rfl rfl rfl
  | illegal => exact .ended (.of_banks rfl rfl rfl rfl rfl rfl) rfl rfl
  | executed busy alive good run => exact run.controlled busy
  | env e => exact .drifted (envStep_inv s e)
  | host a =>
    obtain ⟨u, b, served, e⟩ := hostAccess_inv s a
    rw [e]
    exact served.controlled b

/-- An invariant of the control registers and the operation in flight that every `Controlled` move keeps is kept by
every step. -/
theorem step_keeps_control {P : State → Prop} (moved : ∀ s t, P s → Controlled s t → P t) {s t : State} (hs : P s)
    (h : step s = .next t) : P t := by
  obtain ⟨ms, hm⟩ := step_inv h
  have hs' : P { s with schedule := ms } :=
    moved s _ hs (.kept (.of_banks rfl rfl rfl rfl rfl rfl) rfl rfl rfl rfl)
  exact moved _ _ hs' hm.controlled

theorem Controlled.params_eq {s t : State} (h : Controlled s t) : t.params = s.params := by
  cases h with
  | started => rfl
  | ran busy run => exact run.params_eq
  | ended same => exact same.params
  | kept same => exact same.params
  | drifted drift => exact drift.params_eq

/-- No step changes the parameters. -/
theorem step_params {s t : State} (h : step s = .next t) : t.params = s.params :=
  step_keeps_control (P := fun u => u.params = s.params) (fun _ _ e m => m.params_eq.trans e) rfl h

/-! ### The field ranges -/

/-- The registers of a domain hold legal values (10_state.md R33, R35). -/
def Domain.legal (d : Dom) (v : Domain) : Prop :=
  256 ≤ v.div.toNat ∧ v.auxsrc.toNat ≤ if d.twoStage then 2 else 3

/-- The feedback divider of a PLL is legal (10_state.md R29). -/
def Pll.legal (v : Pll) : Prop := v.fbdiv = 0#9 ∨ (16 ≤ v.fbdiv.toNat ∧ v.fbdiv.toNat ≤ 320)

theorem State.ranges_iff (s : State) :
    s.Ranges ↔ (∀ d, Domain.legal d (s.dom d)) ∧ (∀ p, (s.pll p).legal) ∧ s.osc.range = 0#4 ∧ s.work.legal :=
  ⟨fun h => ⟨fun d => ⟨h.clkDiv d, h.auxsrc d⟩, h.fbdiv, h.oscRange, h.kept⟩,
    fun ⟨dom, pll, osc, work⟩ => ⟨fun d => (dom d).1, pll, osc, fun d => (dom d).2, work⟩⟩

theorem legalTwoStageSource_le {main : Path} {a : BitVec 3} (h : legalTwoStageSource main a = true) : a.toNat ≤ 2 := by
  cases main <;> simp_all [legalTwoStageSource]

theorem legalGatedSource_iff {main : Path} {a : BitVec 3} :
    legalGatedSource main a = true ↔ main = .auxiliary ∧ a.toNat ≤ 3 := by
  cases main <;> simp [legalGatedSource]

theorem divOperandRejection_none {d : Dom} {main : Path} {a : BitVec 3} (h : divOperandRejection d main a = none) :
    (a.toNat ≤ if d.twoStage then 2 else 3) ∧ (d.twoStage = false → main = .auxiliary) := by
  unfold divOperandRejection twoStageOperandRejection at h
  cases two : d.twoStage <;> simp [two] at h ⊢
  · exact ⟨(legalGatedSource_iff.mp h).2, (legalGatedSource_iff.mp h).1⟩
  · exact legalTwoStageSource_le h

/-- An accepted divisor is at least 1.0 and fits its register (44_clock_divider.md R151 (c) to (e)). -/
theorem divisorRejection_none {src : Nat} {dst : Word} (h : divisorRejection src dst = none) :
    256 ≤ divisorOf src dst.toNat ∧ divisorOf src dst.toNat < 2 ^ 32 := by
  unfold divisorRejection at h
  split at h <;> [cases h; skip]
  split at h <;> [cases h; skip]
  split at h <;> [cases h; skip]
  split at h <;> [cases h; skip]
  case isFalse le nonzero _ fits =>
    have pos : 0 < dst.toNat := Nat.pos_of_ne_zero fun e => nonzero (BitVec.eq_of_toNat_eq e)
    refine ⟨?_, by omega⟩
    rw [divisorOf, Nat.le_div_iff_mul_le pos, Nat.shiftLeft_eq]
    omega

/-- An accepted PLL_CFG has a legal feedback divider (42_pll_engine.md R123 (c)) and a PLL that is not in use (R123 (e)). -/
theorem State.pllRejection_none {s : State} {p : PllId} {refdiv : BitVec 6} {pd1 pd2 : BitVec 3} {targetVco : Word}
    (h : s.pllRejection p refdiv pd1 pd2 targetVco = none) :
    16 ≤ solveFbdiv s.oscFreq refdiv targetVco ∧ solveFbdiv s.oscFreq refdiv targetVco ≤ 320 ∧
      s.pllInUse p = false := by
  unfold State.pllRejection at h
  split at h <;> [cases h; skip]
  split at h <;> [cases h; skip]
  split at h <;> [cases h; skip]
  split at h <;> [cases h; skip]
  split at h <;> [cases h; skip]
  split at h <;> [cases h; skip]
  split at h <;> [cases h; skip]
  case isFalse fbdiv _ unused =>
    simp only [Config.fbdivMin, Config.fbdivMax] at fbdiv
    exact ⟨by omega, by omega, by simpa using unused⟩

/-- What an operation keeps when its validation passes may be stored. -/
theorem Accepted.legal {s : State} {o : Op} {w : Work} (h : Accepted s o w) : w.legal := by
  cases h with
  | pll ok =>
    obtain ⟨low, high, _⟩ := State.pllRejection_none ok
    simp only [Work.legal, BitVec.toNat_ofNat]
    rw [Nat.mod_eq_of_lt (by omega)]
    exact ⟨low, high⟩
  | mux isDom two legal ready => exact ⟨two, legalTwoStageSource_le legal⟩
  | div isDom legal divisor ready =>
    obtain ⟨low, high⟩ := divisorRejection_none divisor
    refine ⟨?_, divOperandRejection_none legal⟩
    rwa [BitVec.toNat_ofNat, Nat.mod_eq_of_lt high]
  | _ => trivial

theorem Ran.work_legal {s u : State} {k : Nat} (r : Ran s s.work k (.cont u)) (h : s.work.legal) : u.work.legal := by
  rcases r.work_cases with same | ⟨_, _, _, _, _, old, new⟩ | ⟨_, _, _, _, _, _, _, _, _, _, _, _, old, new⟩
  · exact same ▸ h
  all_goals
    rw [new]
    rw [old] at h
    exact h

theorem Rewrites.legal {s : State} {w : Work} {k : Nat} {d : Dom} {v : Domain} (r : Rewrites s w k d v) (kept : w.legal)
    (h : Domain.legal d (s.dom d)) : Domain.legal d v := by
  cases r with
  | divisor => exact ⟨kept.1, h.2⟩
  | muxSource => exact ⟨h.1, by simpa [kept.1] using kept.2⟩
  | divSource => exact ⟨h.1, kept.2.1⟩
  | divSourceGated => exact ⟨h.1, kept.2.1⟩
  | _ => exact h

theorem Ran.dom_legal {s u : State} {w : Work} {k : Nat} (r : Ran s w k (.cont u)) (kept : w.legal)
    (h : ∀ d, Domain.legal d (s.dom d)) (d : Dom) : Domain.legal d (u.dom d) := by
  rcases r.dom_cases d with same | rewritten
  · exact same ▸ h d
  · exact rewritten.legal kept (h d)

theorem Ran.pll_legal {s u : State} {w : Work} {k : Nat} (r : Ran s w k (.cont u)) (kept : w.legal)
    (h : ∀ p, (s.pll p).legal) (q : PllId) : (u.pll q).legal := by
  cases w
  case pll p refdiv pd1 pd2 fbdiv vcoHz =>
    have written : ∀ v : Pll, v.legal → (if q = p then v else s.pll q).legal := by
      intro v legal
      split
      · exact legal
      · exact h q
    cases r
    case pll1 | pll5 | pll8 =>
      rw [State.pll_goto, State.pll_regWrite_pllPwr]
      exact written _ (h p)
    case pll3 =>
      rw [State.pll_goto, State.pll_regWrite_pllCs]
      exact written _ (h p)
    case pll7 =>
      rw [State.pll_goto, State.pll_regWrite_pllPrim]
      exact written _ (h p)
    case pll2 =>
      rw [State.pll_goto, State.pll_regWrite_pllFbdiv, Pll.writeFbdiv_zero]
      exact written _ (.inl rfl)
    case pll4 =>
      rw [State.pll_goto, State.pll_regWrite_pllFbdiv, Pll.writeFbdiv_word]
      exact written _ (.inr kept)
    all_goals exact h q
  all_goals
    rw [State.pll_congr (r.plls_eq (by simp))]
    exact h q

theorem Ran.oscRange {s u : State} {w : Work} {k : Nat} (r : Ran s w k (.cont u)) (h : s.osc.range = 0#4) :
    u.osc.range = 0#4 := by
  by_cases hw : ∃ f delay, w = .osc f delay
  · obtain ⟨f, delay, rfl⟩ := hw
    cases r
    case osc2 => simp [State.regWrite_oscCtrl]
    all_goals exact h
  · rw [r.osc_eq fun f delay e => hw ⟨f, delay, e⟩]
    exact h

theorem State.SameControl.dom_legal {s t : State} (h : s.SameControl t) {d : Dom} (l : Domain.legal d (s.dom d)) :
    Domain.legal d (t.dom d) := by
  rw [h.dom d]; exact l

theorem State.SameControl.pll_legal {s t : State} (h : s.SameControl t) {p : PllId} (l : (s.pll p).legal) :
    (t.pll p).legal := by
  rw [h.pll p]; exact l

theorem Drifted.dom_legal {s t : State} (r : Drifted s t) (h : ∀ d, Domain.legal d (s.dom d)) (d : Dom) :
    Domain.legal d (t.dom d) := by
  cases r with
  | muxFlip e => exact State.setDom_forall h (v := { s.dom e with selected := (s.dom e).main }) (h e) d
  | _ => exact h d

theorem Drifted.pll_legal {s t : State} (r : Drifted s t) (h : ∀ p, (s.pll p).legal) (p : PllId) : (t.pll p).legal := by
  cases r with
  | pllLock q => exact State.setPll_forall (P := fun _ v => v.legal) h (v := { s.pll q with lock := true }) (h q) p
  | _ => exact h p

theorem Controlled.ranges {s t : State} (h : Controlled s t) (ranges : s.Ranges) : t.Ranges := by
  rw [State.ranges_iff] at *
  obtain ⟨dom, pll, osc, work⟩ := ranges
  cases h with
  | started busy start passed => exact ⟨dom, pll, osc, passed.legal⟩
  | ran busy run => exact ⟨run.dom_legal work dom, run.pll_legal work pll, run.oscRange osc, run.work_legal work⟩
  | ended same idle poll =>
    exact ⟨fun d => same.dom_legal (dom d), fun p => same.pll_legal (pll p), same.osc ▸ osc, idle ▸ trivial⟩
  | kept same kept step poll busy =>
    exact ⟨fun d => same.dom_legal (dom d), fun p => same.pll_legal (pll p), same.osc ▸ osc, kept ▸ work⟩
  | drifted drift =>
    have range : t.osc.range = s.osc.range := by cases drift <;> rfl
    exact ⟨drift.dom_legal dom, drift.pll_legal pll, range ▸ osc, drift.work_eq ▸ work⟩

/-! ### The reset lines -/

/-- Two masks are disjoint bit by bit. -/
theorem and_eq_zero_iff (a b : Word) : a &&& b = 0#32 ↔ ∀ i, a.getLsbD i = true → b.getLsbD i = false := by
  constructor
  · intro h i ha
    have := congrArg (·.getLsbD i) h
    simpa [ha] using this
  · intro h
    apply BitVec.eq_of_getLsbD_eq
    intro i _
    cases ha : a.getLsbD i
    · simp [ha]
    · simp [h i ha]

/-- A mask is inside another bit by bit. -/
theorem and_not_eq_zero_iff (a m : Word) : a &&& ~~~m = 0#32 ↔ ∀ i, a.getLsbD i = true → m.getLsbD i = true := by
  rw [and_eq_zero_iff]
  refine forall_congr' fun i => imp_congr_right fun ha => ?_
  simp [BitVec.lt_of_getLsbD ha]

/-- The reset lines, line by line. -/
theorem State.resetLines_iff (s : State) :
    s.ResetLines ↔ (∀ i, s.rstCtrl.getLsbD i = true → s.params.periphAll.getLsbD i = true) ∧
      (∀ i, s.rstDone.getLsbD i = true → s.params.periphAll.getLsbD i = true ∧ s.rstCtrl.getLsbD i = false) := by
  constructor
  · rintro ⟨held, done, exclusive⟩
    exact ⟨(and_not_eq_zero_iff _ _).mp held,
      fun i hi => ⟨(and_not_eq_zero_iff _ _).mp done i hi, (and_eq_zero_iff _ _).mp exclusive i hi⟩⟩
  · rintro ⟨held, done⟩
    exact ⟨(and_not_eq_zero_iff _ _).mpr held, (and_not_eq_zero_iff _ _).mpr fun i hi => (done i hi).1,
      (and_eq_zero_iff _ _).mpr fun i hi => (done i hi).2⟩

theorem State.ResetLines.congr {s t : State} (h : s.ResetLines) (params : t.params = s.params)
    (rstCtrl : t.rstCtrl = s.rstCtrl) (rstDone : t.rstDone = s.rstDone) : t.ResetLines := by
  rw [State.resetLines_iff] at *
  rw [params, rstCtrl, rstDone]
  exact h

/-- A RegWrite of RST_CTRL leaves no line held and done at once, and none outside PERIPH_ALL (10_state.md R22, R51). -/
theorem State.ResetLines.regWrite {s : State} (h : s.ResetLines) (v : Word) : (s.regWrite .rstCtrl v).ResetLines := by
  rw [State.resetLines_iff] at *
  simp only [State.regWrite_rstCtrl, BitVec.getLsbD_and, Bool.and_eq_true]
  refine ⟨fun i hi => hi.2, fun i ⟨done, clear⟩ => ⟨(h.2 i done).1, ?_⟩⟩
  simp only [BitVec.getLsbD_not, Bool.and_eq_true, Bool.not_eq_true'] at clear
  simp [clear.2]

theorem Ran.resetLines {s u : State} {w : Work} {k : Nat} (r : Ran s w k (.cont u)) (h : s.ResetLines) : u.ResetLines := by
  by_cases lines : (∃ set, w = .hold set) ∨ ∃ set, w = .release set
  · rcases lines with ⟨set, rfl⟩ | ⟨set, rfl⟩ <;> cases r
    case inl.hold1 | inr.release1 => exact (h.regWrite _).congr rfl rfl rfl
    all_goals exact h.congr rfl rfl rfl
  · rw [not_or, not_exists, not_exists] at lines
    exact h.congr r.params_eq (r.rstCtrl_eq lines.1 lines.2) (r.rstDone_eq lines.1 lines.2)

theorem getLsbD_oneHot (p : Fin 32) (i : Nat) : (1#32 <<< p.val).getLsbD i = decide (i = p.val) := by
  rw [Bool.eq_iff_iff]
  simp [BitVec.getLsbD_shiftLeft, BitVec.getLsbD_one]
  omega

/-- Reset-done of a released peripheral of PERIPH_ALL keeps the lines legal (10_state.md R51). -/
theorem State.ResetLines.resetDone {s : State} (h : s.ResetLines) {p : Fin 32} (can : s.canResetDone p = true) :
    { s with rstDone := s.rstDone ||| (1#32 <<< p.val) }.ResetLines := by
  rw [State.resetLines_iff] at *
  simp only [State.canResetDone, Bool.and_eq_true, Bool.not_eq_true'] at can
  obtain ⟨⟨released, _⟩, inAll⟩ := can
  refine ⟨h.1, fun i hi => ?_⟩
  simp only [BitVec.getLsbD_or, getLsbD_oneHot, Bool.or_eq_true, decide_eq_true_eq] at hi
  rcases hi with done | rfl
  · exact h.2 i done
  · exact ⟨inAll, released⟩

theorem Controlled.resetLines {s t : State} (h : Controlled s t) (lines : s.ResetLines) : t.ResetLines := by
  cases h with
  | started => exact lines.congr rfl rfl rfl
  | ran busy run => exact run.resetLines lines
  | ended same => exact lines.congr same.params same.rstCtrl same.rstDone
  | kept same => exact lines.congr same.params same.rstCtrl same.rstDone
  | drifted drift =>
    cases drift with
    | resetDone p can => exact lines.resetDone can
    | _ => exact lines.congr rfl rfl rfl

/-! ### POLLCNT -/

theorem State.step_eq_ofNat {s : State} {k : Nat} (h : s.step.toNat = k) : s.step = BitVec.ofNat 8 k := by
  rw [← h, BitVec.ofNat_toNat, BitVec.setWidth_eq]

/-- Where the operation in flight has a Wait, the position is at it. -/
theorem State.atWait_of_waitAt {s : State} {id : WaitId} {r : Reg} {pred : Word → Bool} {next : BitVec 8}
    (h : waitAt s.work s.step.toNat = some (id, r, pred, next)) : s.atWait = true := by
  unfold State.atWait
  generalize s.work = w at h
  cases w with
  | idle => cases h
  | hold set => cases h
  | release set =>
    obtain ⟨at_, _⟩ := waitAt_release h
    simp [State.step_eq_ofNat at_]
  | osc f delay =>
    obtain ⟨at_, _⟩ := waitAt_osc h
    simp [State.step_eq_ofNat at_]
  | pll p refdiv pd1 pd2 fbdiv vcoHz =>
    obtain ⟨at_, _⟩ := waitAt_pll h
    simp [State.step_eq_ofNat at_]
  | mux d main auxsrc stepped =>
    obtain ⟨_, _, ⟨at_, stepped, _⟩ | ⟨at_, _⟩⟩ := waitAt_mux h
    · simp [State.step_eq_ofNat at_, stepped]
    · simp [State.step_eq_ofNat at_]
  | div d main auxsrc src divisor old stepped settle left =>
    obtain ⟨two, _, _, ⟨at_, stepped, _⟩ | ⟨at_, _⟩⟩ := waitAt_div h
    · simp [State.step_eq_ofNat at_, two, stepped]
    · simp [State.step_eq_ofNat at_, two]
  | fc src refKhz =>
    obtain ⟨at_, _⟩ | ⟨at_, _⟩ := waitAt_fc h <;> simp [State.step_eq_ofNat at_]

/-- Where the position is at a Wait, the operation in flight has it. -/
theorem State.waitAt_of_atWait {s : State} (h : s.atWait = true) : waitAt s.work s.step.toNat ≠ none := by
  unfold State.atWait at h
  generalize s.work = w at h
  cases w <;> simp at h
  case release | osc | pll => simp [waitAt, h]
  case mux | fc => rcases h with h | h <;> simp [waitAt, h]
  case div =>
    obtain ⟨two, h | h⟩ := h <;> simp [waitAt, h, two]

/-- No operation waits at its first micro-operation. -/
theorem State.atWait_of_start {s : State} (start : s.step = 0#8) : s.atWait = false := by
  unfold State.atWait
  split <;> simp [start]

/-- A micro-operation that goes on ends a Wait, counts a poll of it, or is at none. -/
theorem Ran.poll_cases {s u : State} {w : Work} {k : Nat} (r : Ran s w k (.cont u)) :
    u.pollcnt = 0#32 ∨ (u = s.polled ∧ ∃ id r pred next, waitAt w k = some (id, r, pred, next)) ∨
      (waitAt w k = none ∧ u.pollcnt = s.pollcnt) := by
  cases r
  case waited => exact .inl rfl
  case polled at_ => exact .inr (.inl ⟨rfl, _, _, _, _, at_⟩)
  all_goals
    exact .inr (.inr ⟨by simp_all [waitAt], by simp [State.writeMain, State.writeAuxsrc, State.writeEnable]⟩)

theorem State.PollsInWait.congr {s t : State} (h : s.PollsInWait) (busy : t.busy = s.busy) (poll : t.pollcnt = s.pollcnt)
    (work : t.work = s.work) (step : t.step = s.step) : t.PollsInWait := by
  simpa only [State.PollsInWait, State.atWait, busy, poll, work, step] using h

theorem Controlled.pollsInWait {s t : State} (h : Controlled s t) (polls : s.PollsInWait) : t.PollsInWait := by
  cases h with
  | started busy start passed =>
    intro counted
    obtain ⟨_, at_⟩ := polls counted
    simp [State.atWait_of_start start] at at_
  | ran busy run =>
    intro counted
    rcases run.poll_cases with zero | ⟨rfl, _, _, _, _, at_⟩ | ⟨none, same⟩
    · exact absurd zero counted
    · exact ⟨busy, State.atWait_of_waitAt (s := s.polled) at_⟩
    · rw [same] at counted
      exact absurd none (State.waitAt_of_atWait (polls counted).2)
  | ended same idle poll => exact fun counted => absurd poll counted
  | kept same work step poll busy => exact polls.congr busy poll work step
  | drifted drift => exact polls.congr drift.busy_eq drift.pollcnt_eq drift.work_eq drift.step_eq

/-- Settles O47: each of the three is kept by every case of `Controlled`. -/
theorem rangesKept : Obligations.RangesKept := fun _ _ h =>
  ⟨fun ranges => step_keeps_control (fun _ _ ranges m => m.ranges ranges) ranges h,
    fun lines => step_keeps_control (fun _ _ lines m => m.resetLines lines) lines h,
    fun polls => step_keeps_control (fun _ _ polls m => m.pollsInWait polls) polls h⟩

end Sys2Proof.Machine
end


section
/-! The two invariants of 10_state.md R47 (f) and (g): no peripheral out of reset before its clock domain is
configured (O48), no clock in use unconfigured (O49). -/

namespace Sys2Proof.Machine

/-! ### The ResetMask invariant -/

/-- No micro-operation that goes on changes a DOM_VALID bit. -/
theorem Ran.valid_eq {s u : State} {w : Work} {k : Nat} (r : Ran s w k (.cont u)) (d : Dom) :
    (u.dom d).valid = (s.dom d).valid := by
  rcases r.dom_cases d with same | rewritten
  · rw [same]
  · generalize u.dom d = v at rewritten
    cases rewritten <;> rfl

theorem Drifted.valid_eq {s t : State} (r : Drifted s t) (d : Dom) : (t.dom d).valid = (s.dom d).valid := by
  cases r with
  | muxFlip e =>
    exact State.setDom_forall (P := fun d v => v.valid = (s.dom d).valid) (v := { s.dom e with selected := (s.dom e).main })
      (fun _ => rfl) rfl d
  | _ => rfl

/-- The late set has a clock domain of its own each, and PERIPH_ALL contains it (00_scope.md R5, 10_state.md R41). -/
theorem periphAll_of_clockDep {all : Word} (late : all &&& Config.lateSet = Config.lateSet) {p : Nat} {d : Dom}
    (dep : clockDep p = some d) : all.getLsbD p = true := by
  have inLate : Config.lateSet.getLsbD p = true := by
    unfold clockDep at dep
    split at dep <;> first | cases dep; done | rfl
  have := congrArg (·.getLsbD p) late
  simpa [inLate] using this

theorem State.unreleasable_getLsbD (s : State) {p : Nat} (small : p ≤ 6) :
    s.unreleasable.getLsbD p = !s.periphReleasable p := by
  have key : ∀ a b c d e f g : Bool,
      let w : Word := 0#25 ++ BitVec.ofBool g ++ BitVec.ofBool f ++ BitVec.ofBool e ++ BitVec.ofBool d ++
        BitVec.ofBool c ++ BitVec.ofBool b ++ BitVec.ofBool a
      w.getLsbD 0 = a ∧ w.getLsbD 1 = b ∧ w.getLsbD 2 = c ∧ w.getLsbD 3 = d ∧ w.getLsbD 4 = e ∧ w.getLsbD 5 = f ∧
        w.getLsbD 6 = g := by decide
  obtain ⟨b0, b1, b2, b3, b4, b5, b6⟩ := key (!s.periphReleasable 0) (!s.periphReleasable 1) (!s.periphReleasable 2)
    (!s.periphReleasable 3) (!s.periphReleasable 4) (!s.periphReleasable 5) (!s.periphReleasable 6)
  interval_cases p <;> assumption

/-- The peripherals with a clock domain are 0 to 6. -/
theorem clockDep_le {p : Nat} {d : Dom} (dep : clockDep p = some d) : p ≤ 6 := by
  unfold clockDep at dep
  split at dep <;> first | cases dep; done | decide

/-- A passed RST_RELEASE has checked the clock domain of every peripheral of its set (40_reset_controller.md R102). -/
theorem Accepted.releaseChecked {s : State} {set : Word} {w : Work} (h : Accepted s (.release set) w) {p : Nat} {d : Dom}
    (dep : clockDep p = some d) (inSet : set.getLsbD p = true) : (s.dom d).valid = true := by
  cases h with
  | release inAll deps =>
    have releasable : s.unreleasable.getLsbD p = false := (and_eq_zero_iff _ _).mp deps p inSet
    rw [s.unreleasable_getLsbD (clockDep_le dep), Bool.not_eq_false'] at releasable
    simp only [State.periphReleasable, dep, State.depValid, Bool.and_eq_true] at releasable
    exact releasable.1

theorem State.releaseChecked_of_idle {s : State} (idle : s.work = .idle) : s.releaseChecked := by
  rw [State.releaseChecked, idle]
  trivial

/-- The checks of RST_RELEASE stay true while no DOM_VALID bit is lost. -/
theorem State.releaseChecked.mono {s t : State} (h : s.releaseChecked)
    (valid : ∀ d, (s.dom d).valid = true → (t.dom d).valid = true) (work : t.work = s.work) : t.releaseChecked := by
  unfold State.releaseChecked at h ⊢
  rw [work]
  split at h
  · exact fun p d dep inSet => valid d (h p d dep inSet)
  · trivial

/-- A micro-operation that lets a peripheral of PERIPH_ALL out of reset is RST_RELEASE's, of a set that has it. -/
theorem Ran.released {s u : State} {w : Work} {k : Nat} (r : Ran s w k (.cont u)) {p : Nat}
    (inAll : s.params.periphAll.getLsbD p = true) (out : u.rstCtrl.getLsbD p = false) :
    s.rstCtrl.getLsbD p = false ∨ ∃ set, w = .release set ∧ set.getLsbD p = true := by
  by_cases lines : (∃ set, w = .hold set) ∨ ∃ set, w = .release set
  · rcases lines with ⟨set, rfl⟩ | ⟨set, rfl⟩ <;> cases r
    case inl.hold1 =>
      left
      have bit : ((s.regRead .rstCtrl ||| set) &&& s.params.periphAll).getLsbD p = false := out
      simp only [State.regRead, BitVec.getLsbD_and, BitVec.getLsbD_or, inAll, Bool.and_true, Bool.or_eq_false_iff] at bit
      exact bit.1
    case inr.release1 =>
      have bit : ((s.regRead .rstCtrl &&& ~~~set) &&& s.params.periphAll).getLsbD p = false := out
      simp only [State.regRead, BitVec.getLsbD_and, BitVec.getLsbD_not, inAll, BitVec.lt_of_getLsbD inAll, decide_true,
        Bool.true_and, Bool.and_true, Bool.and_eq_false_iff, Bool.not_eq_false'] at bit
      exact bit.imp id fun inSet => ⟨set, rfl, inSet⟩
    all_goals exact .inl out
  · rw [not_or, not_exists, not_exists] at lines
    exact .inl (r.rstCtrl_eq lines.1 lines.2 ▸ out)

/-- A micro-operation keeps the set of RST_RELEASE, and no other turns into it. -/
theorem Ran.releaseChecked {s u : State} {k : Nat} (r : Ran s s.work k (.cont u)) (h : s.releaseChecked) :
    u.releaseChecked := by
  rcases r.work_cases with same | ⟨_, _, _, _, _, _, new⟩ | ⟨_, _, _, _, _, _, _, _, _, _, _, _, _, new⟩
  · exact h.mono (fun d e => (r.valid_eq d).trans e) same
  all_goals
    rw [State.releaseChecked, new]
    trivial

theorem Ran.resetMask {s u : State} (late : s.params.periphAll &&& Config.lateSet = Config.lateSet)
    (r : Ran s s.work s.step.toNat (.cont u)) (h : s.ResetMask) : u.ResetMask where
  released p d dep out := by
    rw [r.valid_eq]
    rcases r.released (periphAll_of_clockDep late dep) out with before | ⟨set, hw, inSet⟩
    · exact h.released p d dep before
    · have checked := h.checked
      rw [State.releaseChecked, hw] at checked
      exact checked p d dep inSet
  checked := r.releaseChecked h.checked

theorem Controlled.resetMask {s t : State} (h : Controlled s t)
    (late : s.params.periphAll &&& Config.lateSet = Config.lateSet) (mask : s.ResetMask) : t.ResetMask := by
  cases h with
  | @started o w busy start passed =>
    refine ⟨mask.released, ?_⟩
    cases passed with
    | release inAll deps => exact fun p d => (Accepted.release inAll deps).releaseChecked
    | _ => trivial
  | ran busy run => exact run.resetMask late mask
  | ended same idle =>
    exact ⟨fun p d dep out => same.valid d (mask.released p d dep (same.rstCtrl ▸ out)),
      State.releaseChecked_of_idle idle⟩
  | kept same work =>
    exact ⟨fun p d dep out => same.valid d (mask.released p d dep (same.rstCtrl ▸ out)),
      mask.checked.mono same.valid work⟩
  | drifted drift =>
    have rstCtrl : t.rstCtrl = s.rstCtrl := by cases drift <;> rfl
    exact ⟨fun p d dep out => (drift.valid_eq d).trans (mask.released p d dep (rstCtrl ▸ out)),
      mask.checked.mono (fun d e => (drift.valid_eq d).trans e) drift.work_eq⟩

/-- Settles O48: a peripheral leaves its reset only by RST_RELEASE, which has checked its clock domain, and no step
clears a DOM_VALID bit. -/
theorem resetMaskKept : Obligations.ResetMaskKept := fun _ _ late mask h =>
  (step_keeps_control (P := fun s => s.params.periphAll &&& Config.lateSet = Config.lateSet ∧ s.ResetMask)
    (fun _ _ ⟨late, mask⟩ m => ⟨by rw [m.params_eq]; exact late, m.resetMask late mask⟩) ⟨late, mask⟩ h).2

/-! ### No clock in use becomes unconfigured -/

theorem State.auxReady_congr {s t : State} (osc : t.osc = s.osc) (pll : ∀ p, (t.pll p).ready = (s.pll p).ready)
    (a : BitVec 3) : t.auxReady a = s.auxReady a := by
  simp only [State.auxReady, osc, pll]

/-- A source stays ready if the oscillator does, and the PLL whose output it is. -/
theorem State.auxReady_mono {s t : State} {a : BitVec 3} (osc : s.osc.ready = true → t.osc.ready = true)
    (pll : ∀ p, a = pllAuxCode p → (s.pll p).ready = true → (t.pll p).ready = true) (h : s.auxReady a = true) :
    t.auxReady a = true := by
  unfold State.auxReady at h ⊢
  split at h
  case h_1 e => exact osc h
  case h_2 e => exact pll .sys (BitVec.eq_of_toNat_eq e) h
  case h_3 e => exact pll .aux (BitVec.eq_of_toNat_eq e) h
  case h_4 => rfl
  case h_5 => cases h

/-- Domain `d` with the registers `v` uses its auxiliary input only if the source is configured. -/
def State.configured (s : State) (d : Dom) (v : Domain) : Prop := v.usesAux d = true → s.auxReady v.auxsrc = true

/-- A PLL that is not in use is no source of a domain that uses its auxiliary input (10_state.md R45). -/
theorem State.pllInUse_eq_false {s : State} {p : PllId} :
    s.pllInUse p = false ↔ ∀ d, (s.dom d).usesAux d = true → (s.dom d).auxsrc ≠ pllAuxCode p := by
  have all : ∀ d, d ∈ Dom.all := fun d => by cases d <;> decide
  simp only [State.pllInUse, List.any_eq_false, Bool.and_eq_true, beq_iff_eq, not_and]
  exact ⟨fun h d uses code => h d (all d) code uses, fun h d _ code uses => h d uses code⟩

/-- A Wait that is satisfied or polled is not at a micro-operation that has none. -/
theorem State.step_ne_of_waitAt {s : State} {w : Work} {id : WaitId} {r : Reg} {pred : Word → Bool} {next k : BitVec 8}
    (at_ : waitAt w s.step.toNat = some (id, r, pred, next)) (none : waitAt w k.toNat = none) : s.step ≠ k := by
  rintro rfl
  rw [none] at at_
  cases at_

/-- Micro-operation 4 of MUX_SWITCH finds its source in AUXSRC: M3 has written it (43_clock_mux.md R142). -/
theorem Ran.muxSource {s u : State} {d : Dom} {auxsrc : BitVec 3} {stepped : Bool}
    (r : Ran s (.mux d .auxiliary auxsrc stepped) s.step.toNat (.cont u)) (at_ : u.step = 4#8) :
    (u.dom d).auxsrc = auxsrc := by
  generalize hk : s.step.toNat = k at r
  cases r
  case waited at' =>
    have := waitAt_next at'
    obtain ⟨_, _, ⟨rfl, _⟩ | ⟨rfl, _⟩⟩ := waitAt_mux at' <;> simp_all
  case polled at' => exact absurd at_ (State.step_ne_of_waitAt (hk ▸ at') (by simp [waitAt]))
  case mux3Write => simp
  all_goals simp at at_

/-- Micro-operation 5 of DIV_APPLY finds its source in AUXSRC: M3 or G3 has written it (44_clock_divider.md R152). -/
theorem Ran.divSource {s u : State} {d : Dom} {auxsrc : BitVec 3} {src : Nat} {div old : Word} {stepped : Bool}
    {settle left : Nat} (r : Ran s (.div d .auxiliary auxsrc src div old stepped settle left) s.step.toNat (.cont u))
    (at_ : u.step = 5#8) : (u.dom d).auxsrc = auxsrc := by
  generalize hk : s.step.toNat = k at r
  cases r
  case waited at' =>
    have := waitAt_next at'
    obtain ⟨_, _, _, ⟨rfl, _⟩ | ⟨rfl, _⟩⟩ := waitAt_div at' <;> simp_all
  case polled at' => exact absurd at_ (State.step_ne_of_waitAt (hk ▸ at') (by simp [waitAt]))
  case div3Settling => simp [show s.step = 5#8 from at_] at hk
  case div4Write | div4Gated => simp
  all_goals simp at at_

/-! ### A source stays configured while the engine runs -/

theorem Ran.oscReady {s u : State} {w : Work} {k : Nat} (r : Ran s w k (.cont u)) (h : s.osc.ready = true) :
    u.osc.ready = true := by
  by_cases hw : ∃ f delay, w = .osc f delay
  · obtain ⟨f, delay, rfl⟩ := hw
    cases r
    case osc2 => simp_all [State.regWrite_oscCtrl, Osc.ready]
    case osc3 => simpa [State.regWrite_oscStartup, Osc.ready] using h
    all_goals exact h
  · rw [r.osc_eq fun f delay e => hw ⟨f, delay, e⟩]
    exact h

/-- PLL_CFG leaves the other PLL alone. -/
theorem Ran.pll_eq_of_ne {s u : State} {p q : PllId} {refdiv : BitVec 6} {pd1 pd2 : BitVec 3} {fbdiv : BitVec 9}
    {vcoHz : Word} {k : Nat} (r : Ran s (.pll p refdiv pd1 pd2 fbdiv vcoHz) k (.cont u)) (other : q ≠ p) :
    u.pll q = s.pll q := by
  cases r <;> simp [other]

/-- The operation in flight does not reconfigure the source `a`. -/
def Work.spares (w : Work) (a : BitVec 3) : Prop :=
  match w with
  | .pll p _ _ _ _ _ => a ≠ pllAuxCode p
  | _ => True

theorem Ran.auxReady {s u : State} {w : Work} {k : Nat} (r : Ran s w k (.cont u)) {a : BitVec 3} (spared : w.spares a)
    (h : s.auxReady a = true) : u.auxReady a = true := by
  refine State.auxReady_mono r.oscReady (fun q code ready => ?_) h
  by_cases hw : ∃ p refdiv pd1 pd2 fbdiv vcoHz, w = .pll p refdiv pd1 pd2 fbdiv vcoHz
  · obtain ⟨p, refdiv, pd1, pd2, fbdiv, vcoHz, rfl⟩ := hw
    rw [r.pll_eq_of_ne fun same => spared (same ▸ code)]
    exact ready
  · rw [State.pll_congr (r.plls_eq fun p refdiv pd1 pd2 fbdiv vcoHz e => hw ⟨p, refdiv, pd1, pd2, fbdiv, vcoHz, e⟩)]
    exact ready

/-- The PLL in flight is no source in use. -/
theorem State.AuxReady.spares {s : State} (h : s.AuxReady) {d : Dom} (uses : (s.dom d).usesAux d = true) :
    s.work.spares (s.dom d).auxsrc := by
  have checked := h.checked
  unfold State.sourceChecked at checked
  unfold Work.spares
  split at checked <;> simp only [*]
  exact State.pllInUse_eq_false.mp checked d uses

/-- What a switch sequence writes to its domain leaves it on a configured source. -/
theorem Rewrites.configured {s : State} {d : Dom} {v : Domain} (r : Rewrites s s.work s.step.toNat d v)
    (checked : s.sourceChecked) (h : s.configured d (s.dom d)) : s.configured d v := by
  unfold State.sourceChecked at checked
  generalize hw : s.work = w at r checked
  generalize hk : s.step.toNat = k at r
  intro uses
  cases r with
  | muxBack =>
    refine h ?_
    cases two : Dom.twoStage d <;> simp_all [Domain.usesAux]
  | muxSource => exact (checked rfl).1
  | @muxMain _ main auxsrc stepped =>
    cases main with
    | auxiliary =>
      obtain ⟨ready, source⟩ := checked rfl
      exact (source (State.step_eq_ofNat hk)) ▸ ready
    | reference =>
      refine h ?_
      cases two : Dom.twoStage d <;> simp_all [Domain.usesAux]
  | divisor => exact h uses
  | divBack two =>
    refine h ?_
    simp_all [Domain.usesAux]
  | divOff gated => simp [Domain.usesAux, gated] at uses
  | divSource two => exact (checked.2 rfl).1
  | divSourceGated gated => exact (checked.2 (checked.1 gated)).1
  | @divMain _ main _ _ _ _ _ _ _ two =>
    cases main with
    | auxiliary =>
      obtain ⟨ready, source⟩ := checked.2 rfl
      exact (source (State.step_eq_ofNat hk)) ▸ ready
    | reference =>
      refine h ?_
      simp_all [Domain.usesAux]
  | divOn gated =>
    obtain ⟨ready, source⟩ := checked.2 (checked.1 gated)
    exact (source (State.step_eq_ofNat hk)) ▸ ready

/-! ### The invariant -/

/-- The check of R47 (g) on the operation in flight, for each kind of operation. -/
theorem State.sourceChecked_mux {s : State} {d : Dom} {main : Path} {auxsrc : BitVec 3} {stepped : Bool}
    (hw : s.work = .mux d main auxsrc stepped) :
    s.sourceChecked ↔
      (main = .auxiliary → s.auxReady auxsrc = true ∧ (s.step = 4#8 → (s.dom d).auxsrc = auxsrc)) := by
  rw [State.sourceChecked, hw]

theorem State.sourceChecked_div {s : State} {d : Dom} {main : Path} {auxsrc : BitVec 3} {src : Nat} {div old : Word}
    {stepped : Bool} {settle left : Nat} (hw : s.work = .div d main auxsrc src div old stepped settle left) :
    s.sourceChecked ↔ (d.twoStage = false → main = .auxiliary) ∧
      (main = .auxiliary → s.auxReady auxsrc = true ∧ (s.step = 5#8 → (s.dom d).auxsrc = auxsrc)) := by
  rw [State.sourceChecked, hw]

theorem State.sourceChecked_pll {s : State} {p : PllId} {refdiv : BitVec 6} {pd1 pd2 : BitVec 3} {fbdiv : BitVec 9}
    {vcoHz : Word} (hw : s.work = .pll p refdiv pd1 pd2 fbdiv vcoHz) : s.sourceChecked ↔ s.pllInUse p = false := by
  rw [State.sourceChecked, hw]

/-- Of the other operations nothing is checked. -/
theorem State.sourceChecked_other {s : State}
    (pll : ∀ p refdiv pd1 pd2 fbdiv vcoHz, s.work ≠ .pll p refdiv pd1 pd2 fbdiv vcoHz)
    (mux : ∀ d main auxsrc stepped, s.work ≠ .mux d main auxsrc stepped)
    (div : ∀ d main auxsrc src divisor old stepped settle left,
      s.work ≠ .div d main auxsrc src divisor old stepped settle left) : s.sourceChecked := by
  unfold State.sourceChecked
  split
  case h_1 hw => exact absurd hw (pll _ _ _ _ _ _)
  case h_2 hw => exact absurd hw (mux _ _ _ _)
  case h_3 hw => exact absurd hw (div _ _ _ _ _ _ _ _ _)
  case h_4 => trivial

/-- A micro-operation keeps what the switch in flight needs: its source stays configured, and AUXSRC holds it before the
source is selected or enabled. -/
theorem Ran.sourceChecked {s u : State} (r : Ran s s.work s.step.toNat (.cont u)) (h : s.sourceChecked) :
    u.sourceChecked := by
  cases hw : s.work with
  | pll p refdiv pd1 pd2 fbdiv vcoHz =>
    have work : u.work = .pll p refdiv pd1 pd2 fbdiv vcoHz := by
      rcases r.work_cases with same | ⟨_, _, _, _, _, old, _⟩ | ⟨_, _, _, _, _, _, _, _, _, _, _, _, old, _⟩
      · exact same.trans hw
      all_goals simp [hw] at old
    rw [State.sourceChecked_pll work]
    rw [State.sourceChecked_pll hw] at h
    rw [hw] at r
    simpa [State.pllInUse, State.dom_congr (r.doms_eq (by simp) (by simp))] using h
  | mux d main auxsrc stepped =>
    obtain ⟨stepped', work⟩ : ∃ stepped', u.work = .mux d main auxsrc stepped' := by
      rcases r.work_cases with same | ⟨_, _, _, _, _, old, new⟩ | ⟨_, _, _, _, _, _, _, _, _, _, _, _, old, _⟩
      · exact ⟨stepped, same.trans hw⟩
      · rw [hw] at old
        cases old
        exact ⟨_, new⟩
      · simp [hw] at old
    rw [State.sourceChecked_mux work]
    rintro rfl
    rw [State.sourceChecked_mux hw] at h
    rw [hw] at r
    exact ⟨r.auxReady trivial (h rfl).1, r.muxSource⟩
  | div d main auxsrc src divisor old stepped settle left =>
    obtain ⟨stepped', settle', left', work⟩ :
        ∃ stepped' settle' left', u.work = .div d main auxsrc src divisor old stepped' settle' left' := by
      rcases r.work_cases with same | ⟨_, _, _, _, _, old, _⟩ | ⟨_, _, _, _, _, _, _, _, _, _, _, _, old, new⟩
      · exact ⟨stepped, settle, left, same.trans hw⟩
      · simp [hw] at old
      · rw [hw] at old
        cases old
        exact ⟨_, _, _, new⟩
    rw [State.sourceChecked_div work]
    rw [State.sourceChecked_div hw] at h
    rw [hw] at r
    refine ⟨h.1, ?_⟩
    rintro rfl
    exact ⟨r.auxReady trivial (h.2 rfl).1, r.divSource⟩
  | _ =>
    have work : u.work = s.work := by
      rcases r.work_cases with same | ⟨_, _, _, _, _, old, _⟩ | ⟨_, _, _, _, _, _, _, _, _, _, _, _, old, _⟩
      · exact same
      all_goals simp [hw] at old
    exact State.sourceChecked_other (by simp [work, hw]) (by simp [work, hw]) (by simp [work, hw])

theorem Ran.keepsAuxReady {s u : State} (r : Ran s s.work s.step.toNat (.cont u)) (h : s.AuxReady) : u.AuxReady where
  used d uses := by
    rcases r.dom_cases d with same | rewritten
    · rw [same] at uses ⊢
      exact r.auxReady (h.spares uses) (h.used d uses)
    · have ready := rewritten.configured h.checked (h.used d) uses
      refine r.auxReady ?_ ready
      generalize s.work = w, s.step.toNat = k, u.dom d = v at rewritten
      cases rewritten <;> trivial
  checked := r.sourceChecked h.checked

theorem twoStageReadyRejection_none {s : State} {d : Dom} {main : Path} {auxsrc : BitVec 3}
    (h : s.twoStageReadyRejection d main auxsrc = none) (aux : main = .auxiliary) : s.auxReady auxsrc = true := by
  unfold State.twoStageReadyRejection at h
  split at h <;> [cases h; skip]
  split at h <;> [cases h; skip]
  case isFalse configured => simpa [aux] using configured

/-- An accepted switch goes to a configured source (43_clock_mux.md R141 (d), 44_clock_divider.md R151 (f)), and an accepted
PLL_CFG reconfigures no source in use (42_pll_engine.md R123 (e)). -/
theorem Accepted.sourceChecked {s : State} {o : Op} {w : Work} (h : Accepted s o w) :
    ((s.keep w).goto 1#8).sourceChecked := by
  cases h with
  | pll ok => exact (State.pllRejection_none ok).2.2
  | mux isDom two legal ready => exact fun aux => ⟨twoStageReadyRejection_none ready aux, fun at_ => by simp at at_⟩
  | @div _ d main auxsrc _ _ isDom legal divisor ready =>
    refine ⟨(divOperandRejection_none legal).2, fun aux => ⟨?_, fun at_ => by simp at at_⟩⟩
    change s.auxReady auxsrc = true
    unfold State.divReadyRejection at ready
    split at ready
    · exact twoStageReadyRejection_none ready aux
    · split at ready
      case isTrue configured => exact configured
      case isFalse => cases ready
  | _ => trivial

/-- What an ending, the host or the environment leaves of R47 (g): no source becomes unconfigured, no domain uses another
one, and the operation in flight is the same or none. -/
theorem State.AuxReady.mono {s t : State} (h : s.AuxReady) (ready : ∀ a, s.auxReady a = true → t.auxReady a = true)
    (uses : ∀ d, (t.dom d).usesAux d = true → (s.dom d).usesAux d = true)
    (auxsrc : ∀ d, (t.dom d).auxsrc = (s.dom d).auxsrc) (work : (t.work = s.work ∧ t.step = s.step) ∨ t.work = .idle) :
    t.AuxReady where
  used d used := by rw [auxsrc]; exact ready _ (h.used d (uses d used))
  checked := by
    rcases work with ⟨work, step⟩ | idle
    · have checked := h.checked
      unfold State.sourceChecked at checked ⊢
      rw [work, step]
      split at checked
      · rw [State.pllInUse_eq_false] at checked ⊢
        intro d used
        rw [auxsrc]
        exact checked d (uses d used)
      · exact fun aux => ⟨ready _ (checked aux).1, fun at_ => (auxsrc _).trans ((checked aux).2 at_)⟩
      · exact ⟨checked.1, fun aux => ⟨ready _ (checked.2 aux).1, fun at_ => (auxsrc _).trans ((checked.2 aux).2 at_)⟩⟩
      · trivial
    · rw [State.sourceChecked, idle]
      trivial

theorem State.SameControl.keepsAuxReady {s t : State} (same : s.SameControl t) (h : s.AuxReady)
    (work : (t.work = s.work ∧ t.step = s.step) ∨ t.work = .idle) : t.AuxReady := by
  refine h.mono (fun a ready => ?_) (fun d uses => ?_) (fun d => by rw [same.dom d]) work
  · rwa [State.auxReady_congr same.osc (fun p => by rw [same.pll p]; rfl)]
  · rw [same.dom d] at uses
    exact uses

/-- The environment makes no source unconfigured and moves no domain to another one (10_state.md R52 to R54). -/
theorem Drifted.keepsAuxReady {s t : State} (r : Drifted s t) (h : s.AuxReady) : t.AuxReady := by
  refine h.mono (fun a ready => State.auxReady_mono ?_ (fun p _ => ?_) ready) (fun d => ?_) (fun d => ?_) 
    (.inl ⟨r.work_eq, r.step_eq⟩)
  · cases r with
    | oscStable => exact fun ready => by simp_all [Osc.ready]
    | _ => exact id
  · cases r with
    | pllLock q =>
      exact State.setPll_forall (P := fun p v => (s.pll p).ready = true → v.ready = true)
        (v := { s.pll q with lock := true })
        (fun _ => id) (fun ready => by simp_all [Pll.ready]) p
    | _ => exact id
  · cases r with
    | muxFlip e =>
      exact State.setDom_forall (P := fun d v => v.usesAux d = true → (s.dom d).usesAux d = true)
        (v := { s.dom e with selected := (s.dom e).main }) (fun _ => id)
        (fun uses => by unfold Domain.usesAux at uses ⊢; split at uses <;> simp_all) d
    | _ => exact id
  · cases r with
    | muxFlip e =>
      exact State.setDom_forall (P := fun d v => v.auxsrc = (s.dom d).auxsrc)
        (v := { s.dom e with selected := (s.dom e).main }) (fun _ => rfl) rfl d
    | _ => rfl

theorem Controlled.keepsAuxReady {s t : State} (h : Controlled s t) (aux : s.AuxReady) : t.AuxReady := by
  cases h with
  | started busy start passed => exact ⟨aux.used, passed.sourceChecked⟩
  | ran busy run => exact run.keepsAuxReady aux
  | ended same idle => exact same.keepsAuxReady aux (.inr idle)
  | kept same work step => exact same.keepsAuxReady aux (.inl ⟨work, step⟩)
  | drifted drift => exact drift.keepsAuxReady aux

/-- Settles O49: a switch goes only to a source its validation has found configured, and PLL_CFG stops only a PLL that no
domain uses. -/
theorem auxReadyKept : Obligations.AuxReadyKept := fun _ _ aux h =>
  step_keeps_control (fun _ _ aux m => m.keepsAuxReady aux) aux h

end Sys2Proof.Machine
end


section
/-! The words of the registers: what each target register reads after an engine write (O11), and the layouts of STATUS
and ERR and the register map (O5). -/

namespace Sys2Proof.Machine

/-! ### Masks -/

/-- The low `n` bits of a word, as the mask of R22 to R40 takes them. -/
theorem and_lowMask (v : Word) {n : Nat} (h : n ≤ 32) :
    v &&& BitVec.ofNat 32 (2 ^ n - 1) = (v.extractLsb' 0 n).setWidth 32 := by
  have pow : 2 ^ n ≤ 2 ^ 32 := Nat.pow_le_pow_right (by decide) h
  have pos : 0 < 2 ^ n := Nat.two_pow_pos n
  apply BitVec.eq_of_toNat_eq
  rw [BitVec.toNat_and, BitVec.toNat_ofNat, Nat.mod_eq_of_lt (by omega), Nat.and_two_pow_sub_one_eq_mod,
    BitVec.toNat_setWidth, BitVec.extractLsb'_toNat, Nat.shiftRight_zero, Nat.mod_eq_of_lt (b := 2 ^ 32)]
  exact Nat.lt_of_lt_of_le (Nat.mod_lt _ pos) pow

/-- A field reads 0 exactly if its bits of the word are 0. -/
theorem and_lowMask_eq_zero (v : Word) {n : Nat} (h : n ≤ 32) :
    v &&& BitVec.ofNat 32 (2 ^ n - 1) = 0#32 ↔ v.extractLsb' 0 n = 0#n := by
  rw [and_lowMask v h]
  constructor
  · intro e
    have := congrArg (BitVec.setWidth n) e
    rwa [BitVec.setWidth_setWidth_of_le _ h, BitVec.setWidth_eq, BitVec.setWidth_zero] at this
  · intro e
    rw [e, BitVec.setWidth_zero]

/-- A field at the bottom of an otherwise empty register. -/
theorem zero_append_eq_setWidth {n : Nat} (m : Nat) (x : BitVec n) : (0#m ++ x : BitVec (m + n)) = x.setWidth (m + n) := by
  apply BitVec.eq_of_toNat_eq
  rw [BitVec.toNat_append, BitVec.toNat_setWidth, BitVec.toNat_ofNat, Nat.zero_mod, Nat.zero_shiftLeft, Nat.zero_or,
    Nat.mod_eq_of_lt (Nat.lt_of_lt_of_le x.isLt (Nat.pow_le_pow_right (by decide) (by omega)))]

/-! ### OSC_CTRL and OSC_STATUS (10_state.md R24, R25) -/

theorem oscCtrl_word (v : Word) :
    (0#23 ++ BitVec.ofBool (v.getLsbD 8) ++ 0#4 ++ v.extractLsb' 0 4 : Word) = v &&& 0x10F#32 := by
  apply BitVec.eq_of_getLsbD_eq
  intro i hi
  simp only [BitVec.getLsbD_append, BitVec.getLsbD_and, BitVec.getLsbD_extractLsb', BitVec.getLsbD_ofBool,
    BitVec.getLsbD_zero]
  interval_cases i <;> simp

/-- OSC_STATUS with a sticky BADWRITE and a copy of ENABLE, from its word before. -/
theorem oscStatus_word (stable badWrite enabled sticky enable : Bool) :
    (BitVec.ofBool stable ++ 0#6 ++ BitVec.ofBool (badWrite || sticky) ++ 0#23 ++ BitVec.ofBool enable : Word) =
      ((BitVec.ofBool stable ++ 0#6 ++ BitVec.ofBool badWrite ++ 0#23 ++ BitVec.ofBool enabled : Word) &&& 0x80000000#32) |||
        (if sticky = false then
          (BitVec.ofBool stable ++ 0#6 ++ BitVec.ofBool badWrite ++ 0#23 ++ BitVec.ofBool enabled : Word) &&& 0x01000000#32
        else 0x01000000#32) ||| (BitVec.ofBool enable).setWidth 32 := by
  decide +revert

theorem oscEnable_bit (v : Word) : (BitVec.ofBool (v.getLsbD 8)).setWidth 32 = (v >>> 8) &&& 1#32 := by
  apply BitVec.eq_of_getLsbD_eq
  intro i hi
  simp only [BitVec.getLsbD_setWidth, BitVec.getLsbD_and, BitVec.getLsbD_ushiftRight, BitVec.getLsbD_ofBool]
  interval_cases i <;> simp

theorem oscStatus_cleared (v : Word) (stable badWrite enabled : Bool) :
    (BitVec.ofBool stable ++ 0#6 ++ BitVec.ofBool (badWrite && !v.getLsbD 24) ++ 0#23 ++ BitVec.ofBool enabled : Word) =
      (BitVec.ofBool stable ++ 0#6 ++ BitVec.ofBool badWrite ++ 0#23 ++ BitVec.ofBool enabled : Word) &&&
        ~~~(v &&& 0x01000000#32) := by
  apply BitVec.eq_of_getLsbD_eq
  intro i hi
  simp only [BitVec.getLsbD_append, BitVec.getLsbD_and, BitVec.getLsbD_not, BitVec.getLsbD_ofBool, BitVec.getLsbD_zero]
  interval_cases i <;> simp

/-! ### The PLL registers (10_state.md R27 to R30, R53) -/

/-- LOCK, cleared or kept, over a new REFDIV. -/
theorem pllCs_word (lock : Bool) (refdiv : BitVec 6) (v : Word) :
    (BitVec.ofBool lock ++ 0#25 ++ v.extractLsb' 0 6 : Word) =
      ((BitVec.ofBool lock ++ 0#25 ++ refdiv : Word) &&& 0x80000000#32) ||| (v &&& 0x3F#32) := by
  apply BitVec.eq_of_getLsbD_eq
  intro i hi
  simp only [BitVec.getLsbD_append, BitVec.getLsbD_and, BitVec.getLsbD_or, BitVec.getLsbD_extractLsb',
    BitVec.getLsbD_ofBool, BitVec.getLsbD_zero]
  interval_cases i <;> simp

/-- Without LOCK the register shows REFDIV alone. -/
theorem Pll.csWord_unlocked (p : Pll) (lock : Bool) :
    { p with lock := p.lock && lock }.csWord = if lock = true then p.csWord else p.csWord &&& 0x3F#32 := by
  cases lock with
  | true => simp [Pll.csWord]
  | false =>
    have key : ∀ (l : Bool) (r : BitVec 6),
        (BitVec.ofBool false ++ 0#25 ++ r : Word) = (BitVec.ofBool l ++ 0#25 ++ r : Word) &&& 0x3F#32 := by decide
    simpa [Pll.csWord] using key p.lock p.refdiv

theorem pllPwr_word (v : Word) :
    (0#29 ++ BitVec.ofBool (v.getLsbD 2) ++ BitVec.ofBool (v.getLsbD 1) ++ BitVec.ofBool (v.getLsbD 0) : Word) =
      v &&& 7#32 := by
  apply BitVec.eq_of_getLsbD_eq
  intro i hi
  simp only [BitVec.getLsbD_append, BitVec.getLsbD_and, BitVec.getLsbD_ofBool, BitVec.getLsbD_zero]
  interval_cases i <;> simp

/-- A write of PLL_PWR powers the core and the VCO up exactly if the low two bits are 0. -/
theorem corePowered_iff (v : Word) : v &&& 3#32 = 0#32 ↔ (!(v.getLsbD 0 || v.getLsbD 1)) = true := by
  have two : v &&& 3#32 = 0#32 ↔ v.extractLsb' 0 2 = 0#2 := and_lowMask_eq_zero v (n := 2) (by decide)
  rw [two, Bool.not_eq_true', Bool.or_eq_false_iff]
  constructor
  · intro e
    exact ⟨by simpa using congrArg (·.getLsbD 0) e, by simpa using congrArg (·.getLsbD 1) e⟩
  · rintro ⟨core, vco⟩
    apply BitVec.eq_of_getLsbD_eq
    intro i hi
    rw [BitVec.getLsbD_extractLsb']
    interval_cases i <;> simp_all

theorem pllPrim_word (v : Word) :
    (0#25 ++ v.extractLsb' 4 3 ++ 0#1 ++ v.extractLsb' 0 3 : Word) = v &&& 0x77#32 := by
  apply BitVec.eq_of_getLsbD_eq
  intro i hi
  simp only [BitVec.getLsbD_append, BitVec.getLsbD_and, BitVec.getLsbD_extractLsb', BitVec.getLsbD_zero]
  interval_cases i <;> simp

/-! ### CLK_CTRL (10_state.md R32) -/

@[simp] theorem Path.bit_ofBit (b : Bool) : (Path.ofBit b).bit = BitVec.ofBool b := by cases b <;> rfl

theorem clkCtrl_twoStage (v : Word) :
    clkCtrlWord (Path.ofBit (v.getLsbD 0)) (v.extractLsb' 4 3) false = v &&& 0x71#32 := by
  rw [clkCtrlWord, Path.bit_ofBit]
  apply BitVec.eq_of_getLsbD_eq
  intro i hi
  simp only [BitVec.getLsbD_append, BitVec.getLsbD_and, BitVec.getLsbD_extractLsb', BitVec.getLsbD_ofBool,
    BitVec.getLsbD_zero]
  interval_cases i <;> simp

theorem clkCtrl_gated (v : Word) :
    clkCtrlWord .reference (v.extractLsb' 4 3) (v.getLsbD 11) = v &&& 0x870#32 := by
  rw [clkCtrlWord, Path.bit]
  apply BitVec.eq_of_getLsbD_eq
  intro i hi
  simp only [BitVec.getLsbD_append, BitVec.getLsbD_and, BitVec.getLsbD_extractLsb', BitVec.getLsbD_ofBool,
    BitVec.getLsbD_zero]
  interval_cases i <;> simp

theorem Domain.ctrlWord_writeCtrl (x : Domain) (d : Dom) (v : Word) :
    (x.writeCtrl d v).ctrlWord d = v &&& if d.twoStage then 0x71#32 else 0x870#32 := by
  cases two : d.twoStage <;>
    simp only [Domain.ctrlWord, Domain.mainOf, Domain.enableOf, Domain.writeCtrl, two, Bool.false_eq_true, if_false,
      if_true]
  · exact clkCtrl_gated v
  · exact clkCtrl_twoStage v

/-! ### FC_STATUS (10_state.md R39, R55) -/

/-- A write of FC_SRC starts a measurement unless the source is 0. -/
theorem Counter.statusWord_writeSrc (c : Counter) (a : BitVec 8) :
    (c.writeSrc a).statusWord = if a = 0#8 then c.statusWord else 1#32 := by
  unfold Counter.writeSrc
  split
  case isTrue none =>
    rw [if_pos (show a = 0#8 from none)]
    rfl
  case isFalse some =>
    rw [if_neg (show ¬a = 0#8 from some)]
    simp [Counter.statusWord]

@[simp] theorem Counter.src_writeSrc (c : Counter) (a : BitVec 8) : (c.writeSrc a).src = a := by
  unfold Counter.writeSrc
  split <;> rfl

/-! ### What each register reads after its write -/

section
variable (s : State) (v : Word)

theorem State.oscStatus_after_oscCtrl :
    (s.regWrite .oscCtrl v).regRead .oscStatus =
      (s.regRead .oscStatus &&& 0x80000000#32) |||
        (if v &&& 0xF#32 = 0#32 then s.regRead .oscStatus &&& 0x01000000#32 else 0x01000000#32) |||
        ((v >>> 8) &&& 1#32) := by
  have range : v &&& 0xF#32 = 0#32 ↔ (v.extractLsb' 0 4 != 0#4) = false := by
    rw [bne_eq_false_iff_eq]
    exact and_lowMask_eq_zero v (n := 4) (by decide)
  simp only [range, ← oscEnable_bit]
  exact oscStatus_word s.osc.stable s.osc.badWrite s.osc.enable (v.extractLsb' 0 4 != 0#4) (v.getLsbD 8)

theorem State.pllCs_after_pllCs (p : PllId) :
    (s.regWrite (.pllCs p) v).regRead (.pllCs p) = (s.regRead (.pllCs p) &&& 0x80000000#32) ||| (v &&& 0x3F#32) := by
  change ((s.setPll p { s.pll p with refdiv := v.extractLsb' 0 6 }).pll p).csWord = _
  rw [State.pll_setPll, if_pos rfl]
  exact pllCs_word (s.pll p).lock (s.pll p).refdiv v

theorem State.pllPwr_after_pllPwr (p : PllId) : (s.regWrite (.pllPwr p) v).regRead (.pllPwr p) = v &&& 7#32 := by
  simp only [State.regRead, State.pll_regWrite_pllPwr, if_true]
  exact pllPwr_word v

theorem State.pllCs_after_pllPwr (p : PllId) :
    (s.regWrite (.pllPwr p) v).regRead (.pllCs p) =
      if v &&& 3#32 = 0#32 then s.regRead (.pllCs p) else s.regRead (.pllCs p) &&& 0x3F#32 := by
  simp only [State.regRead, State.pll_regWrite_pllPwr, if_true, corePowered_iff]
  exact (s.pll p).csWord_unlocked _

theorem State.pllFbdiv_after_pllFbdiv (p : PllId) :
    (s.regWrite (.pllFbdiv p) v).regRead (.pllFbdiv p) = v &&& 0x1FF#32 := by
  simp only [State.regRead, State.pll_regWrite_pllFbdiv, if_true]
  exact (zero_append_eq_setWidth 23 _).trans (and_lowMask v (n := 9) (by decide)).symm

theorem State.pllCs_after_pllFbdiv (p : PllId) :
    (s.regWrite (.pllFbdiv p) v).regRead (.pllCs p) =
      if v &&& 0x1FF#32 = 0#32 then s.regRead (.pllCs p) &&& 0x3F#32 else s.regRead (.pllCs p) := by
  have fbdiv : v &&& 0x1FF#32 = 0#32 ↔ ¬(v.extractLsb' 0 9 != 0#9) = true := by
    rw [bne_iff_ne, not_not]
    exact and_lowMask_eq_zero v (n := 9) (by decide)
  simp only [State.regRead, State.pll_regWrite_pllFbdiv, if_true, fbdiv, ite_not]
  exact (s.pll p).csWord_unlocked _

theorem State.pllPrim_after_pllPrim (p : PllId) : (s.regWrite (.pllPrim p) v).regRead (.pllPrim p) = v &&& 0x77#32 := by
  change ((s.setPll p { s.pll p with postdiv1 := v.extractLsb' 0 3, postdiv2 := v.extractLsb' 4 3 }).pll p).primWord = _
  rw [State.pll_setPll, if_pos rfl]
  exact pllPrim_word v

theorem State.clkCtrl_after_clkCtrl (d : Dom) :
    (s.regWrite (.clkCtrl d) v).regRead (.clkCtrl d) = v &&& if d.twoStage then 0x71#32 else 0x870#32 := by
  change ((s.setDom d ((s.dom d).writeCtrl d v)).dom d).ctrlWord d = _
  rw [State.dom_setDom, if_pos rfl]
  exact (s.dom d).ctrlWord_writeCtrl d v

theorem State.clkDiv_after_clkDiv (d : Dom) : (s.regWrite (.clkDiv d) v).regRead (.clkDiv d) = v := by
  simp only [State.regRead, State.dom_regWrite_clkDiv, if_true]

theorem State.fcSrc_after_fcSrc : (s.regWrite .fcSrc v).regRead .fcSrc = v &&& 0xFF#32 := by
  change (s.fc.writeSrc (v.extractLsb' 0 8)).src.setWidth 32 = _
  rw [Counter.src_writeSrc]
  exact (and_lowMask v (n := 8) (by decide)).symm

theorem State.fcStatus_after_fcSrc :
    (s.regWrite .fcSrc v).regRead .fcStatus = if v &&& 0xFF#32 = 0#32 then s.regRead .fcStatus else 1#32 := by
  have source : v &&& 0xFF#32 = 0#32 ↔ v.extractLsb' 0 8 = 0#8 := and_lowMask_eq_zero v (n := 8) (by decide)
  simp only [source]
  exact s.fc.statusWord_writeSrc _

theorem State.rstCtrl_after_rstCtrl : (s.regWrite .rstCtrl v).regRead .rstCtrl = v &&& s.params.periphAll := by
  change v &&& s.params.periphAll &&& s.params.periphAll = _
  rw [BitVec.and_assoc, BitVec.and_self]

theorem State.rstDone_after_rstCtrl :
    (s.regWrite .rstCtrl v).regRead .rstDone = s.regRead .rstDone &&& ~~~v := by
  change s.rstDone &&& ~~~v &&& s.params.periphAll = s.rstDone &&& s.params.periphAll &&& ~~~v
  ac_rfl

end

/-- Settles O11: register by register, the word of the stored fields is the masked word written. -/
theorem regWriteStores : Obligations.RegWriteStores := fun s v =>
  ⟨fun r => s.regWrite_trace r v, s.rstCtrl_after_rstCtrl v, s.rstDone_after_rstCtrl v, oscCtrl_word v,
    s.oscStatus_after_oscCtrl v, oscStatus_cleared v _ _ _, (and_lowMask v (n := 16) (by decide)).symm,
    s.pllCs_after_pllCs v, fun p => ⟨s.pllPwr_after_pllPwr v p, s.pllCs_after_pllPwr v p⟩,
    fun p => ⟨s.pllFbdiv_after_pllFbdiv v p, s.pllCs_after_pllFbdiv v p⟩, s.pllPrim_after_pllPrim v,
    s.clkCtrl_after_clkCtrl v, s.clkDiv_after_clkDiv v, rfl, rfl, rfl, (and_lowMask v (n := 4) (by decide)).symm,
    s.fcSrc_after_fcSrc v, s.fcStatus_after_fcSrc v⟩

/-! ### The layouts of STATUS and ERR (10_state.md R13, R14) -/

/-- A field above another one, as a sum. -/
theorem toNat_append_eq_add {n m : Nat} (x : BitVec n) (y : BitVec m) :
    (x ++ y).toNat = x.toNat * 2 ^ m + y.toNat := by
  rw [BitVec.toNat_append, ← Nat.shiftLeft_add_eq_or_of_lt y.isLt, Nat.shiftLeft_eq]

theorem State.statusWord_toNat (s : State) :
    s.statusWord.toNat = s.busy.toNat + 2 * s.done.toNat + 4 * s.error.toNat + 8 * s.overrun.toNat +
      16 * s.fsm.code.toNat + 256 * s.step.toNat + 65536 * s.sub.toNat := by
  simp only [State.statusWord, toNat_append_eq_add, BitVec.toNat_ofNat, BitVec.toNat_ofBool]
  omega

theorem ErrReport.word_toNat (e : ErrReport) :
    e.word.toNat = e.cause.cls.toNat + 16 * e.stage.toNat + 256 * e.cause.code.toNat + 65536 * e.opc.toNat +
      16777216 * e.unit.toNat := by
  simp only [ErrReport.word, toNat_append_eq_add, BitVec.toNat_ofNat]
  omega

/-! ### The register map (10_state.md R10) -/

/-- Every register is found at its own offset: no two share one. -/
theorem Reg.ofOffset_offset (r : Reg) : Reg.ofOffset r.offset = some r := by
  cases r with
  | x i => fin_cases i <;> rfl
  | domHz d | domMeasKhz d | clkCtrl d | clkDiv d | clkSelected d => cases d <;> rfl
  | pllVcoHz p | pllOutHz p | pllCs p | pllPwr p | pllFbdiv p | pllPrim p => cases p <;> rfl
  | _ => rfl

theorem Reg.ofOffset_unmapped {o : Nat} (h : ∀ r : Reg, r.offset ≠ o) : Reg.ofOffset o = none := by
  rw [Reg.ofOffset, List.find?_eq_none]
  intro r _ at_
  exact h r (by simpa using at_)

/-- Settles O5: the map by its lists, the two layouts as sums of fields, the causes one by one. -/
theorem registerLayouts : Obligations.RegisterLayouts :=
  ⟨rfl, Reg.ofOffset_offset, fun _ => Reg.ofOffset_unmapped, State.statusWord_toNat, fun s => s.err.word_toNat,
    fun c => by cases c <;> rfl⟩

end Sys2Proof.Machine
end


section
/-! Power-on reset (O43, O44), the invariants of every reachable state (O56), and the environment's steps with the true
frequencies (O40). -/

namespace Sys2Proof.Machine

/-! ### The invariants after power-on reset -/

/-- What the parameters must satisfy contains R5's "PERIPH_ALL contains the late set". -/
theorem periphAll_of_ok {p : Config.Params} (ok : p.ok = true) : p.periphAll &&& Config.lateSet = Config.lateSet := by
  simp only [Config.Params.ok, Bool.and_eq_true, beq_iff_eq] at ok
  obtain ⟨⟨⟨⟨_, late⟩, _⟩, _⟩, _⟩ := ok
  exact late

section
variable (p : Config.Params) (b : Bool) (ms : List Move)

theorem State.powerOn_pll (q : PllId) : (State.powerOn p b ms).pll q = Pll.reset := by cases q <;> rfl

theorem State.powerOn_dom (d : Dom) :
    (State.powerOn p b ms).dom d = Domain.reset (if d.twoStage then .reference else .auxiliary) := by cases d <;> rfl

theorem Domain.reset_usesAux (d : Dom) :
    (Domain.reset (if d.twoStage then .reference else .auxiliary)).usesAux d = false := by
  cases d <;> rfl

theorem State.powerOn_positioned : (State.powerOn p b ms).Positioned :=
  State.positioned_of_ended rfl rfl rfl rfl rfl (.inl rfl)

theorem State.powerOn_ranges : (State.powerOn p b ms).Ranges where
  clkDiv d := by rw [State.powerOn_dom]; exact Nat.le_refl _
  fbdiv q := by rw [State.powerOn_pll]; exact .inl rfl
  oscRange := rfl
  auxsrc d := by rw [State.powerOn_dom]; exact Nat.zero_le _
  kept := trivial

theorem State.powerOn_resetLines : (State.powerOn p b ms).ResetLines where
  held := BitVec.and_not_self _
  done := BitVec.zero_and
  exclusive := BitVec.zero_and

/-- Every peripheral with a clock domain is held. -/
theorem State.powerOn_resetMask (late : p.periphAll &&& Config.lateSet = Config.lateSet) :
    (State.powerOn p b ms).ResetMask where
  released q d dep out := by
    have held : (State.powerOn p b ms).rstCtrl.getLsbD q = true := periphAll_of_clockDep late dep
    rw [held] at out
    cases out
  checked := trivial

theorem State.powerOn_auxReady : (State.powerOn p b ms).AuxReady where
  used d uses := by
    rw [State.powerOn_dom, Domain.reset_usesAux] at uses
    cases uses
  checked := trivial

theorem State.powerOn_lockOrder : (State.powerOn p b ms).LockOrder where
  output q up := by rw [State.powerOn_pll] at up; cases up
  locked q lock := by rw [State.powerOn_pll] at lock; cases lock
  stage := trivial

theorem State.powerOn_counterOwned : (State.powerOn p b ms).CounterOwned where
  running run := by cases run
  notDone run := by cases run

theorem State.powerOn_switchOwned : (State.powerOn p b ms).SwitchOwned := by
  intro d two pending
  rw [State.powerOn_dom, two] at pending
  exact absurd rfl pending

/-- No sub-operation of the bring-up is behind a block that is neither Ready nor busy. -/
theorem State.powerOn_not_reached (k : Nat) : ¬(State.powerOn p b ms).reached k := by
  rintro (ready | ⟨busy, _⟩)
  · cases ready
  · cases busy

theorem State.powerOn_broughtUp : (State.powerOn p b ms).BroughtUp where
  osc r := absurd r (State.powerOn_not_reached p b ms 2)
  pllSys r := absurd r (State.powerOn_not_reached p b ms 3)
  pllAux r := absurd r (State.powerOn_not_reached p b ms 4)
  dom _ r := absurd r (State.powerOn_not_reached p b ms _)
  released r := absurd r (State.powerOn_not_reached p b ms 11)

end

/-- Settles O44: each invariant by what reset leaves, R5's late set for the ResetMask. -/
theorem resetSatisfiesInvariants : Obligations.ResetSatisfiesInvariants :=
  ⟨fun p b ms ok =>
    ⟨State.powerOn_positioned p b ms, State.powerOn_ranges p b ms, State.powerOn_resetLines p b ms,
      State.powerOn_resetMask p b ms (periphAll_of_ok ok), State.powerOn_auxReady p b ms, State.powerOn_lockOrder p b ms,
      State.powerOn_counterOwned p b ms, State.powerOn_switchOwned p b ms, trivial, fun counted => absurd rfl counted,
      trivial, State.powerOn_broughtUp p b ms⟩,
    by decide, rfl⟩

/-! ### Every reachable state -/

/-- A longer run is a step and the rest of the run. -/
theorem run_succ_inv {M : Host.Core} {n : Nat} {s t : M.State} (h : M.run (n + 1) s = .next t) :
    ∃ u, M.step s = .next u ∧ M.run n u = .next t := by
  rw [Host.Core.run] at h
  split at h
  case h_1 u hu => exact ⟨u, hu, h⟩
  all_goals cases h

/-- What every step keeps holds after every run. -/
theorem run_keeps {P : State → Prop} (kept : ∀ s t, P s → step s = .next t → P t) (n : Nat) {s t : State} (hs : P s)
    (h : Sys2Proof.core.run n s = .next t) : P t := by
  induction n generalizing s with
  | zero =>
    cases h
    exact hs
  | succ n ih =>
    obtain ⟨u, hu, rest⟩ := run_succ_inv h
    exact ih (kept s u hs hu) rest

/-- The invariants of 10_state.md R47 together. -/
structure State.Sound (s : State) : Prop where
  late : s.params.periphAll &&& Config.lateSet = Config.lateSet
  positioned : s.Positioned
  ranges : s.Ranges
  resetMask : s.ResetMask
  auxReady : s.AuxReady

theorem step_sound (s t : State) (h : s.Sound) (st : step s = .next t) : t.Sound where
  late := by rw [step_params st]; exact h.late
  positioned := positionKept s t h.positioned st
  ranges := (rangesKept s t st).1 h.ranges
  resetMask := resetMaskKept s t h.late h.resetMask st
  auxReady := auxReadyKept s t h.auxReady st

theorem State.powerOn_sound (p : Config.Params) (b : Bool) (ms : List Move) (ok : p.ok = true) :
    (State.powerOn p b ms).Sound where
  late := periphAll_of_ok ok
  positioned := State.powerOn_positioned p b ms
  ranges := State.powerOn_ranges p b ms
  resetMask := State.powerOn_resetMask p b ms (periphAll_of_ok ok)
  auxReady := State.powerOn_auxReady p b ms

theorem selectedWord_eq_auxiliary {q : Path} (h : selectedWord q = 0b10#32) : q = .auxiliary := by
  cases q
  · exact absurd h (by decide)
  · rfl

/-- Settles O56: reset is sound and every step keeps it so. -/
theorem reachableInvariants : Obligations.ReachableInvariants := by
  intro p b ms n t ok h
  have sound : t.Sound := run_keeps step_sound n (State.powerOn_sound p b ms ok) h
  refine ⟨sound.ranges.clkDiv, fun q => ?_, fun d => ?_, ?_, fun idle => ?_, fun k d dep out => ?_, fun d two sel => ?_,
    fun d gated on => ?_⟩
  · have word : t.regRead (.pllFbdiv q) = (t.pll q).fbdiv.setWidth 32 := zero_append_eq_setWidth 23 _
    have toNat : (t.regRead (.pllFbdiv q)).toNat = (t.pll q).fbdiv.toNat := by
      rw [word, BitVec.toNat_setWidth_of_le (by decide)]
    rw [toNat]
    exact (sound.ranges.fbdiv q).imp (fun zero => by rw [word, zero]; rfl) id
  · change selectedWord _ = _ ∨ selectedWord _ = _
    cases (t.dom d).selectedOf d
    · exact .inl rfl
    · exact .inr rfl
  · cases t.fsm <;> decide
  · obtain ⟨sub, step, poll, _⟩ := sound.positioned.idle idle
    exact ⟨step, sub, poll⟩
  · change (t.rstCtrl &&& t.params.periphAll).getLsbD k = false at out
    rw [BitVec.getLsbD_and, periphAll_of_clockDep sound.late dep, Bool.and_true] at out
    exact sound.resetMask.released k d dep out
  · have aux := selectedWord_eq_auxiliary sel
    rw [Domain.selectedOf, two, if_pos rfl] at aux
    exact sound.auxReady.used d (by simp [Domain.usesAux, two, aux])
  · exact sound.auxReady.used d (by simp [Domain.usesAux, gated, on])

/-! ### The registers after power-on reset -/

/-- A PLL after reset reads REFDIV = 1, everything powered down and both post dividers 7 (10_state.md R48). -/
theorem Pll.reset_words :
    Pll.reset.csWord = 1#32 ∧ Pll.reset.pwrWord = 0b111#32 ∧ Pll.reset.fbdivWord = 0#32 ∧ Pll.reset.primWord = 0x77#32 := by
  decide

theorem Domain.reset_ctrlWord (q : Path) (d : Dom) : (Domain.reset q).ctrlWord d = 0#32 := by
  cases q <;> cases d <;> decide

section
variable (p : Config.Params) (b : Bool) (ms : List Move)

/-- The boot clock drives REF and SYS through dividers of 1.0, and the gated domains are stopped (10_state.md R44, R48). -/
theorem State.powerOn_fOut (d : Dom) :
    ((State.powerOn p b ms).fOut d).num = (if d.twoStage then p.bootHz else 0) * ((State.powerOn p b ms).fOut d).den ∧
      0 < ((State.powerOn p b ms).fOut d).den := by
  have ref : (State.powerOn p b ms).fRef = ⟨p.bootHz * 256, 1 * 256⟩ := rfl
  have sys : (State.powerOn p b ms).fSys = ⟨p.bootHz * 256 * 256, 1 * 256 * 256⟩ := rfl
  have gated : (State.powerOn p b ms).fGated (Domain.reset .auxiliary) = ⟨0 * 256, 1 * 256⟩ := rfl
  cases d
  case ref =>
    change (State.powerOn p b ms).fRef.num = p.bootHz * (State.powerOn p b ms).fRef.den ∧
      0 < (State.powerOn p b ms).fRef.den
    rw [ref]
    simp
  case sys =>
    change (State.powerOn p b ms).fSys.num = p.bootHz * (State.powerOn p b ms).fSys.den ∧
      0 < (State.powerOn p b ms).fSys.den
    rw [sys]
    simp [Nat.mul_assoc]
  case usb | adc | rtc | peri =>
    change ((State.powerOn p b ms).fGated (Domain.reset .auxiliary)).num = 0 * _ ∧
      0 < ((State.powerOn p b ms).fGated (Domain.reset .auxiliary)).den
    rw [gated]
    simp

/-- The registers that reset clears. -/
theorem State.powerOn_cleared {r : Reg}
    (h : r ∈ [Reg.cmd, .status, .err, .errsnap, .pollcnt, .domValid, .oscFreq, .rstDone, .oscCtrl, .oscStartup, .fcRefKhz,
      .fcMinKhz, .fcMaxKhz, .fcInterval, .fcSrc, .fcStatus, .fcResult]) :
    (State.powerOn p b ms).regRead r = 0#32 := by
  have words : State.reset.statusWord = 0#32 ∧ ErrReport.cleared.word = 0#32 ∧ State.reset.domValidWord = 0#32 ∧
      State.reset.osc.ctrlWord = 0#32 ∧ Counter.reset.statusWord = 0#32 := by decide
  obtain ⟨status, err, domValid, osc, fc⟩ := words
  simp only [List.mem_cons, List.not_mem_nil, or_false] at h
  rcases h with rfl | rfl | rfl | rfl | rfl | rfl | rfl | rfl | rfl | rfl | rfl | rfl | rfl | rfl | rfl | rfl | rfl
  case inr.inl => exact status
  case inr.inr.inl => exact err
  case inr.inr.inr.inr.inr.inl => exact domValid
  case inr.inr.inr.inr.inr.inr.inr.inl => exact BitVec.zero_and
  case inr.inr.inr.inr.inr.inr.inr.inr.inl => exact osc
  case inr.inr.inr.inr.inr.inr.inr.inr.inr.inr.inr.inr.inr.inr.inr.inl => exact fc
  all_goals rfl

end

/-- Settles O43: register by register, then the clocks by R44. -/
theorem resetValues : Obligations.ResetValues := by
  intro p b ms s
  refine ⟨fun i => ?_, ?_, rfl, BitVec.and_self, ?_, fun q => ?_, fun d => ?_, rfl, rfl, rfl, State.powerOn_fOut p b ms⟩
  · simp [s, State.regRead, State.powerOn]
  · rw [List.all_eq_true]
    exact fun r h => beq_iff_eq.mpr (State.powerOn_cleared p b ms h)
  · have words : ∀ b, ({ State.reset.osc with badWrite := b }).statusWord = if b then 0x01000000#32 else 0#32 := by decide
    exact words b
  · obtain ⟨cs, pwr, fbdiv, prim⟩ := Pll.reset_words
    simp only [State.regRead, s, State.powerOn_pll]
    exact ⟨rfl, rfl, cs, pwr, fbdiv, prim⟩
  · simp only [State.regRead, s, State.powerOn_dom, Domain.reset_ctrlWord]
    exact ⟨rfl, rfl, trivial, rfl, by cases d <;> rfl⟩

end Sys2Proof.Machine
end


section
/-! The steps of the environment and the true frequencies they read (O40). -/

namespace Sys2Proof.Machine

/-! ### The true frequencies as rationals of Hz (10_state.md R44) -/

/-- A frequency in Hz; a zero denominator gives 0 (log entry 14). -/
def Freq.hz (f : Freq) : ℚ := f.num / f.den

@[simp] theorem Freq.hz_zero : Freq.zero.hz = 0 := by simp [Freq.hz, Freq.zero]

@[simp] theorem Freq.hz_ofHz (n : Nat) : (Freq.ofHz n).hz = n := by simp [Freq.hz, Freq.ofHz]

@[simp] theorem Freq.hz_mul (f : Freq) (n : Nat) : (f.mul n).hz = f.hz * n := by
  simp only [Freq.hz, Freq.mul, Nat.cast_mul]
  ring

@[simp] theorem Freq.hz_div (f : Freq) (n : Nat) : (f.div n).hz = f.hz / n := by
  simp only [Freq.hz, Freq.div, Nat.cast_mul]
  rw [div_div]

/-- A choice between frequencies is one between rationals. -/
theorem Freq.hz_ite (c : Prop) [Decidable c] (f g : Freq) : (if c then f else g).hz = if c then f.hz else g.hz :=
  apply_ite Freq.hz c f g

theorem Freq.pos_iff (f : Freq) : f.pos = true ↔ 0 < f.num ∧ 0 < f.den := by simp [Freq.pos]

section
variable (s : State)

theorem Osc.ready_iff (o : Osc) : o.ready = true ↔ o.enable = true ∧ o.stable = true := by simp [Osc.ready]

theorem Pll.ready_iff (p : Pll) : p.ready = true ↔ p.lock = true ∧ p.postdivPd = false := by simp [Pll.ready]

theorem State.hz_fBoot : s.fBoot.hz = s.params.bootHz := Freq.hz_ofHz _

theorem State.hz_fXosc :
    s.fXosc.hz = if s.osc.enable = true ∧ s.osc.stable = true then (s.params.xtalHz : ℚ) else 0 := by
  simp only [State.fXosc, Freq.hz_ite, Freq.hz_ofHz, Freq.hz_zero, Osc.ready_iff]

theorem State.hz_fVco (p : PllId) :
    (s.fVco p).hz = if (s.pll p).lock = true then s.fXosc.hz * (s.pll p).fbdiv.toNat / (s.pll p).refdiv.toNat else 0 := by
  simp only [State.fVco, Freq.hz_ite, Freq.hz_div, Freq.hz_mul, Freq.hz_zero]

theorem State.hz_fPll (p : PllId) :
    (s.fPll p).hz =
      if (s.pll p).lock = true ∧ (s.pll p).postdivPd = false then
        (s.fVco p).hz / ((s.pll p).postdiv1.toNat * (s.pll p).postdiv2.toNat) else 0 := by
  simp only [State.fPll, Freq.hz_ite, Freq.hz_div, Freq.hz_zero, Pll.ready_iff, Nat.cast_mul]

/-- The auxiliary input of domain `d` with source code `a`, in Hz. -/
def State.auxHz (d : Dom) (a : BitVec 3) : ℚ :=
  match a.toNat with
  | 0 => s.fXosc.hz
  | 1 => (s.fPll .sys).hz
  | 2 => (s.fPll .aux).hz
  | 3 => if d.twoStage then 0 else (s.fOut .sys).hz
  | _ => 0

theorem State.hz_auxInTwoStage {d : Dom} (two : d.twoStage = true) (a : BitVec 3) :
    (s.auxInTwoStage a).hz = s.auxHz d a := by
  unfold State.auxInTwoStage State.auxHz
  match a.toNat with
  | 0 => rfl
  | 1 => rfl
  | 2 => rfl
  | 3 => simp [two]
  | _ + 4 => exact Freq.hz_zero

theorem State.hz_auxInGated {d : Dom} (gated : d.twoStage = false) (a : BitVec 3) :
    (s.auxInGated a).hz = s.auxHz d a := by
  unfold State.auxInGated
  by_cases code : a = 3#3
  · rw [if_pos code, code]
    simp [State.auxHz, gated, State.fOut]
  · have other : a.toNat ≠ 3 := fun three => code (BitVec.eq_of_toNat_eq three)
    rw [if_neg code]
    unfold State.auxInTwoStage State.auxHz
    match a.toNat, other with
    | 0, _ => rfl
    | 1, _ => rfl
    | 2, _ => rfl
    | 3, three => exact absurd rfl three
    | _ + 4, _ => exact Freq.hz_zero

theorem Domain.hz_outOf (v : Domain) (f : Freq) : (v.outOf f).hz = f.hz * 256 / v.div.toNat := by
  simp [Domain.outOf]

theorem selectedWord_eq_reference_iff (q : Path) : selectedWord q = 0b01#32 ↔ q = .reference := by
  cases q <;> decide

/-- The output of a two-stage domain: the input of the path that drives it, over the divider. -/
theorem State.fOut_twoStage {d : Dom} (two : d.twoStage = true) :
    s.fOut d = (s.dom d).outOf (s.pathIn (s.dom d) (s.refIn d) (s.dom d).selected) := by
  cases d
  case ref | sys => rfl
  all_goals cases two

theorem State.fOut_gated {d : Dom} (gated : d.twoStage = false) :
    s.fOut d = (s.dom d).outOf (if (s.dom d).enable then s.auxInGated (s.dom d).auxsrc else Freq.zero) := by
  cases d
  case usb | adc | rtc | peri => rfl
  all_goals cases gated

theorem State.hz_fOut (d : Dom) :
    (s.fOut d).hz =
      (if d.twoStage = true then
          if s.regRead (.clkSelected d) = 0b01#32 then (s.refIn d).hz else s.auxHz d (s.dom d).auxsrc
        else if (s.dom d).enable = true then s.auxHz d (s.dom d).auxsrc else 0) * 256 /
        (s.regRead (.clkDiv d)).toNat := by
  cases two : d.twoStage with
  | true =>
    simp only [s.fOut_twoStage two, Domain.hz_outOf, State.regRead, Domain.selectedOf, two, if_true,
      selectedWord_eq_reference_iff]
    cases (s.dom d).selected <;> simp [State.pathIn, s.hz_auxInTwoStage two]
  | false =>
    simp only [s.fOut_gated two, Domain.hz_outOf, State.regRead, Freq.hz_ite, s.hz_auxInGated two, Freq.hz_zero,
      Bool.false_eq_true, if_false]

/-! ### The environment's steps -/

theorem State.fXosc_pos : s.fXosc.pos = true ↔ s.osc.enable = true ∧ s.osc.stable = true ∧ 0 < s.params.xtalHz := by
  unfold State.fXosc
  split
  case isTrue ready =>
    obtain ⟨enable, stable⟩ := s.osc.ready_iff.mp ready
    simp [Freq.pos_iff, Freq.ofHz, enable, stable]
  case isFalse off =>
    rw [Osc.ready_iff] at off
    simp only [Freq.pos_iff, Freq.zero, Nat.lt_irrefl, false_and, false_iff]
    exact fun ⟨enable, stable, _⟩ => off ⟨enable, stable⟩

theorem State.envStep_resetDone (p : Fin 32) :
    s.envStep (.resetDone p) =
      if s.rstCtrl.getLsbD p = false ∧ s.rstDone.getLsbD p = false ∧ s.params.periphAll.getLsbD p = true then
        { s with rstDone := s.rstDone ||| (1#32 <<< p.val) } else s := by
  simp only [State.envStep, State.canResetDone, Bool.and_eq_true, Bool.not_eq_true', and_assoc]

theorem State.envStep_oscStable :
    s.envStep .oscStable =
      if s.osc.enable = true ∧ s.osc.stable = false then { s with osc := { s.osc with stable := true } } else s := by
  simp only [State.envStep, State.canOscStable, Bool.and_eq_true, Bool.not_eq_true']

theorem State.envStep_pllLock (p : PllId) :
    s.envStep (.pllLock p) =
      if (s.pll p).corePd = false ∧ (s.pll p).vcoPd = false ∧ 16 ≤ (s.pll p).fbdiv.toNat ∧ (s.pll p).fbdiv.toNat ≤ 320 ∧
          s.osc.enable = true ∧ s.osc.stable = true ∧ 0 < s.params.xtalHz ∧ (s.pll p).lock = false then
        s.setPll p { s.pll p with lock := true } else s := by
  simp only [State.envStep, State.canPllLock, Bool.and_eq_true, Bool.not_eq_true', decide_eq_true_eq, s.fXosc_pos, and_assoc]
  rfl

theorem State.envStep_muxFlip_gated {d : Dom} (gated : d.twoStage = false) : s.envStep (.muxFlip d) = s := by
  simp [State.envStep, State.canMuxFlip, gated]

theorem State.envStep_muxFlip {d : Dom} (two : d.twoStage = true) :
    s.envStep (.muxFlip d) =
      if (s.dom d).main ≠ (s.dom d).selected ∧ (s.refIn d).pos = true ∧ (s.auxInTwoStage (s.dom d).auxsrc).pos = true then
        s.setDom d { s.dom d with selected := (s.dom d).main } else s := by
  simp only [State.envStep, State.canMuxFlip, two, Bool.true_and, Bool.and_eq_true, bne_iff_ne, and_assoc, State.pathIn]

/-- The result of a measurement with edge count `c`, saturated (45_frequency_counter.md R174). -/
theorem scaledResult_toNat (c : Nat) (refKhz : Word) (w : Nat) :
    (scaledResult c refKhz w).toNat = min (2 ^ 32 - 1) (c * refKhz.toNat / w) := by
  rw [scaledResult, BitVec.toNat_ofNat, Nat.mod_eq_of_lt (by omega)]

theorem Counter.inBounds_iff (k : Counter) (v : Word) :
    k.inBounds v = decide (k.minKhz.toNat ≤ v.toNat ∧ v.toNat ≤ k.maxKhz.toNat) := by
  simp only [Counter.inBounds, BitVec.le_def, Bool.decide_and]

theorem State.canFcDone_iff : s.canFcDone = true ↔ s.fc.running = true ∧ (s.fOut .ref).pos = true := by
  simp [State.canFcDone]

/-- The completion of a measurement: C drawn, the result scaled and judged (10_state.md R55, 45_frequency_counter.md R174). -/
theorem State.envStep_fcDone (up : Bool) (running : s.fc.running = true) (pos : (s.fOut .ref).pos = true) :
    ∃ c r : Nat,
      c = (edgeCount (s.fSource s.fc.measured) (s.fOut .ref) s.fc.window).round up ∧
      r = min (2 ^ 32 - 1) (c * s.fc.refKhz.toNat / s.fc.window) ∧
      s.envStep (.fcDone up) =
        { s with
          fc := { s.fc with
            running := false, done := true, edges := c, result := BitVec.ofNat 32 r,
            pass := decide (s.fc.minKhz.toNat ≤ r ∧ r ≤ s.fc.maxKhz.toNat),
            fail := !decide (s.fc.minKhz.toNat ≤ r ∧ r ≤ s.fc.maxKhz.toNat) } } := by
  refine ⟨_, _, rfl, rfl, ?_⟩
  rw [State.envStep, if_pos (s.canFcDone_iff.mpr ⟨running, pos⟩)]
  simp only [Counter.finish, Counter.inBounds_iff, scaledResult_toNat]
  rfl

end

/-- Settles O40: step by step, then the frequencies formula by formula. -/
theorem environmentSteps : Obligations.EnvironmentSteps := fun s =>
  ⟨s.envStep_resetDone, s.envStep_oscStable, s.envStep_pllLock, fun _ => s.envStep_muxFlip_gated,
    fun _ => s.envStep_muxFlip, s.envStep_fcDone, fun _ off => if_neg fun can => off (s.canFcDone_iff.mp can),
    s.hz_fBoot, s.hz_fXosc, s.hz_fVco, s.hz_fPll, rfl, rfl, fun _ two => s.hz_auxInTwoStage two _, s.hz_fOut,
    Freq.hz_zero, rfl, rfl, rfl, fun d => by cases d <;> rfl, rfl⟩

end Sys2Proof.Machine
end

section
/-! The host's port (O6, O7), the step of one move (O8), and the frame of an engine write (O12). -/

namespace Sys2Proof.Machine

/-! ### The port: offsets and answers (20_memory.md R60 to R63) -/

section
variable (s : State) {o : Nat}

/-- The base and an offset inside the 4 KiB space make the address of that offset, wherever the base is. -/
theorem State.offsetOf_base_add (small : o < 0x1000) : s.offsetOf (s.params.cbeBase + BitVec.ofNat 32 o) = o := by
  rw [State.offsetOf, BitVec.add_comm, BitVec.add_sub_cancel, BitVec.toNat_ofNat, Nat.mod_eq_of_lt (by omega)]

theorem supportedAccess_iff {o n : Nat} : supportedAccess o n = true ↔ n = 4 ∧ o % 4 = 0 := by
  simp [supportedAccess]

theorem State.hostAccess_read (small : o < 0x1000) (n : Nat) :
    s.hostAccess (.read (s.params.cbeBase + BitVec.ofNat 32 o) n) =
      { s with busReply := if supportedAccess o n then .data (s.wordAt o) else .busError } := by
  simp only [State.hostAccess, s.offsetOf_base_add small, Nat.not_le.mpr small, if_false]
  split <;> rfl

theorem State.hostAccess_write (small : o < 0x1000) (aligned : o % 4 = 0) (v : Word) :
    s.hostAccess (.write (s.params.cbeBase + BitVec.ofNat 32 o) 4 v) = { s.hostWriteAt o v with busReply := .ack } := by
  simp only [State.hostAccess, s.offsetOf_base_add small, Nat.not_le.mpr small, if_false,
    supportedAccess_iff.mpr ⟨rfl, aligned⟩, if_true]

theorem State.hostAccess_write_unsupported (small : o < 0x1000) {n : Nat} (bad : ¬(n = 4 ∧ o % 4 = 0)) (v : Word) :
    s.hostAccess (.write (s.params.cbeBase + BitVec.ofNat 32 o) n v) = { s with busReply := .busError } := by
  simp only [State.hostAccess, s.offsetOf_base_add small, Nat.not_le.mpr small, if_false,
    mt supportedAccess_iff.mp bad]
  rfl

theorem State.wordAt_offset {r : Reg} (at_ : r.offset = o) : s.wordAt o = s.regRead r := by
  rw [State.wordAt, ← at_, Reg.ofOffset_offset]

theorem State.wordAt_unmapped (unmapped : ∀ r : Reg, r.offset ≠ o) : s.wordAt o = 0#32 := by
  rw [State.wordAt, Reg.ofOffset_unmapped unmapped]

end

/-- Every register stands at a multiple of 4. -/
theorem Reg.offset_aligned (r : Reg) : r.offset % 4 = 0 := by
  cases r with
  | x i | domHz d | domMeasKhz d | clkCtrl d | clkDiv d | clkSelected d => simp only [Reg.offset]; omega
  | pllVcoHz p | pllOutHz p | pllCs p | pllPwr p | pllFbdiv p | pllPrim p => cases p <;> rfl
  | _ => rfl

/-- Settles O6: an access in the space is read at its offset, and the map holds the register there or none. -/
theorem hostReads : Obligations.HostReads := by
  intro s o small
  refine ⟨fun r at_ => ?_, fun unmapped aligned => ?_, fun n v bad => ⟨?_, s.hostAccess_write_unsupported small bad v⟩⟩
  · rw [s.hostAccess_read small, if_pos (supportedAccess_iff.mpr ⟨rfl, at_ ▸ r.offset_aligned⟩), s.wordAt_offset at_]
  · rw [s.hostAccess_read small, if_pos (supportedAccess_iff.mpr ⟨rfl, aligned⟩), s.wordAt_unmapped unmapped]
  · rw [s.hostAccess_read small, if_neg (mt supportedAccess_iff.mp bad)]

/-! ### Host writes, register by register (20_memory.md R64) -/

/-- The registers a host writes only while the engine accepts writes (R64). -/
def Reg.guarded : Reg → Bool
  | .cmd | .x _ | .waitLimit => true
  | _ => false

section
variable (s : State) (v : Word)

theorem State.hostWriteAt_offset {r : Reg} {o : Nat} (at_ : r.offset = o) : s.hostWriteAt o v = s.hostWrite r v := by
  rw [State.hostWriteAt, ← at_, Reg.ofOffset_offset]

theorem State.hostWrite_refused {r : Reg} (guarded : r.guarded = true) (refuses : s.acceptsWrites = false) :
    s.hostWrite r v = { s with overrun := true } := by
  cases r with
  | cmd | x i | waitLimit => simp only [State.hostWrite, refuses]; rfl
  | _ => cases guarded

theorem State.hostWrite_status : s.hostWrite .status v = { s with overrun := s.overrun && !v.getLsbD 3 } := by
  simp only [State.hostWrite]
  cases v.getLsbD 3
  · simp
  · simp

theorem State.hostWrite_ignored {r : Reg} (free : r.guarded = false) (notStatus : r ≠ .status) :
    s.hostWrite r v = s := by
  cases r with
  | cmd | x i | waitLimit => cases free
  | status => exact absurd rfl notStatus
  | _ => rfl

end

/-- Where the guarded registers stand (10_state.md R10). -/
theorem Reg.offset_of_guarded {r : Reg} (guarded : r.guarded = true) :
    r.offset = 0x000 ∨ r.offset = 0x010 ∨ (0x020 ≤ r.offset ∧ r.offset < 0x040) := by
  cases r with
  | cmd => exact .inl rfl
  | waitLimit => exact .inr (.inl rfl)
  | x i => exact .inr (.inr (by simp only [Reg.offset]; omega))
  | _ => cases guarded

/-- At each of those offsets that is aligned stands a guarded register. -/
theorem Reg.exists_guarded {o : Nat} (aligned : o % 4 = 0) (h : o = 0x000 ∨ o = 0x010 ∨ (0x020 ≤ o ∧ o < 0x040)) :
    ∃ r : Reg, r.guarded = true ∧ r.offset = o := by
  obtain rfl | rfl | ⟨low, high⟩ := h
  · exact ⟨.cmd, rfl, rfl⟩
  · exact ⟨.waitLimit, rfl, rfl⟩
  · exact ⟨.x ⟨(o - 0x020) / 4, by omega⟩, rfl, by simp only [Reg.offset]; omega⟩

/-- A write at any other offset is ignored, mapped or not (R64, R65). -/
theorem State.hostWriteAt_ignored (s : State) {o : Nat} (v : Word) (notStatus : o ≠ 0x004)
    (free : ¬(o = 0x000 ∨ o = 0x010 ∨ (0x020 ≤ o ∧ o < 0x040))) : s.hostWriteAt o v = s := by
  by_cases mapped : ∃ r : Reg, r.offset = o
  · obtain ⟨r, rfl⟩ := mapped
    have unguarded : r.guarded = false := Bool.eq_false_iff.mpr fun g => free (Reg.offset_of_guarded g)
    rw [s.hostWriteAt_offset v rfl, s.hostWrite_ignored v unguarded fun e => notStatus (e ▸ rfl)]
  · rw [State.hostWriteAt, Reg.ofOffset_unmapped (not_exists.mp mapped)]

/-- Settles O7: the register at the offset decides, guarded or not, and the guard is R64's. -/
theorem hostWrites : Obligations.HostWrites := by
  intro s o v small aligned
  simp only [s.hostAccess_write small aligned, ← s.acceptsWrites_iff]
  refine ⟨?cmd, ?operand, ?limit, ?refused, ?status, ?ignored⟩
  case cmd =>
    intro at_ accepts
    rw [s.hostWriteAt_offset v (r := .cmd) at_.symm, State.hostWrite, if_pos accepts]
    rfl
  case operand =>
    intro i at_ accepts
    rw [s.hostWriteAt_offset v (r := .x i) at_.symm, State.hostWrite, if_pos accepts]
    rfl
  case limit =>
    intro at_ accepts
    rw [s.hostWriteAt_offset v (r := .waitLimit) at_.symm, State.hostWrite, if_pos accepts]
  case refused =>
    intro guardedAt refuses
    obtain ⟨r, guarded, at_⟩ := Reg.exists_guarded aligned guardedAt
    rw [s.hostWriteAt_offset v at_, s.hostWrite_refused v guarded (Bool.eq_false_iff.mpr refuses)]
  case status =>
    intro at_
    rw [s.hostWriteAt_offset v (r := .status) at_.symm, s.hostWrite_status]
  case ignored =>
    intro notCmd notStatus notLimit notOperand
    rw [s.hostWriteAt_ignored v notStatus (by omega)]

/-! ### The step of one move (20_memory.md R69) -/

theorem step_of_noMove {s : State} (h : s.schedule = []) : step s = s.engineStep := by
  rw [step, State.takeMove, h, State.move]

theorem step_of_move {s : State} {m : Move} {rest : List Move} (h : s.schedule = m :: rest) :
    step s = { s with schedule := rest }.move m := by
  rw [step, State.takeMove, h]

theorem State.engineStep_decoded {s : State} {i : Instr} (busy : s.busy = true) (alive : s.fsm ≠ .failed)
    (dec : decode s.cmd = .ok i) : s.engineStep = exec i s := by
  rw [State.engineStep, if_pos ((engineActive_iff s).mpr ⟨busy, alive⟩), State.fetch, dec]

theorem State.engineStep_inactive {s : State} (h : s.busy = false ∨ s.fsm = .failed) : s.engineStep = .next s := by
  rw [State.engineStep, if_neg]
  rw [engineActive_iff]
  rintro ⟨busy, alive⟩
  exact h.elim (by simp [busy]) alive

/-- Settles O8: the first move of the schedule is the step, and the engine's own runs what it decodes. -/
theorem stepRunsDecoded : Obligations.StepRunsDecoded := by
  intro s rest
  refine ⟨fun i busy alive dec => ⟨fun h => ?_, fun h => ?_⟩, fun e h => step_of_move h, fun a h => step_of_move h,
    fun inactive => ⟨fun h => ?_, fun h => ?_⟩⟩
  · rw [step_of_noMove h, State.engineStep_decoded busy alive dec]
  · rw [step_of_move h]
    exact State.engineStep_decoded (s := { s with schedule := rest }) busy alive dec
  · rw [step_of_noMove h, State.engineStep_inactive inactive]
  · rw [step_of_move h]
    exact State.engineStep_inactive (s := { s with schedule := rest }) inactive

/-! ### The frame of a RegWrite (20_memory.md R67) -/

/-- DOM_VALID as the `valid` bits of the six domains. -/
theorem State.domValidWord_eq (s : State) :
    s.domValidWord =
      0#26 ++ BitVec.ofBool (s.dom .peri).valid ++ BitVec.ofBool (s.dom .rtc).valid ++
        BitVec.ofBool (s.dom .adc).valid ++ BitVec.ofBool (s.dom .usb).valid ++ BitVec.ofBool (s.dom .sys).valid ++
        BitVec.ofBool (s.dom .ref).valid := rfl

section
variable {s : State} {r : Reg}

/-- No register shows the write trace. -/
@[simp] theorem State.regRead_traced (s : State) (e : TraceEntry) (r : Reg) : (s.traced e).regRead r = s.regRead r := by
  cases r <;> rfl

/-- A change of PLL p that keeps its description registers changes no register whose word it keeps. -/
theorem State.regRead_setPll {p : PllId} {v : Pll} (vco : v.vcoHz = (s.pll p).vcoHz) (out : v.outHz = (s.pll p).outHz)
    (cs : r = .pllCs p → v.csWord = (s.pll p).csWord) (pwr : r = .pllPwr p → v.pwrWord = (s.pll p).pwrWord)
    (fbdiv : r = .pllFbdiv p → v.fbdivWord = (s.pll p).fbdivWord)
    (prim : r = .pllPrim p → v.primWord = (s.pll p).primWord) : (s.setPll p v).regRead r = s.regRead r := by
  cases r with
  | pllVcoHz q | pllOutHz q | pllCs q | pllPwr q | pllFbdiv q | pllPrim q =>
    by_cases other : q = p
    · subst other
      simp_all [State.regRead]
    · simp [State.regRead, other]
  | _ => rfl

/-- A change of domain d that keeps its description registers and its selected path changes no register whose word it
keeps. -/
theorem State.regRead_setDom {d : Dom} {v : Domain} (hz : v.hz = (s.dom d).hz) (khz : v.measKhz = (s.dom d).measKhz)
    (valid : v.valid = (s.dom d).valid) (selected : v.selected = (s.dom d).selected)
    (ctrl : r = .clkCtrl d → v.ctrlWord d = (s.dom d).ctrlWord d) (div : r = .clkDiv d → v.div = (s.dom d).div) :
    (s.setDom d v).regRead r = s.regRead r := by
  cases r with
  | domValid =>
    have valids : ∀ e, ((s.setDom d v).dom e).valid = (s.dom e).valid :=
      State.setDom_forall (P := fun e v => v.valid = (s.dom e).valid) (fun _ => rfl) valid
    simp only [State.regRead, State.domValidWord_eq, valids]
  | domHz e | domMeasKhz e | clkCtrl e | clkDiv e | clkSelected e =>
    by_cases other : e = d
    · subst other
      simp_all [State.regRead, Domain.selectedOf]
    · simp [State.regRead, other]
  | _ => rfl

/-- A write of FC_SRC changes FC_SRC and FC_STATUS only (10_state.md R55). -/
theorem State.regRead_writeSrc (src : BitVec 8) (notSrc : r ≠ .fcSrc) (notStatus : r ≠ .fcStatus) :
    { s with fc := s.fc.writeSrc src }.regRead r = s.regRead r := by
  cases r with
  | fcSrc => exact absurd rfl notSrc
  | fcStatus => exact absurd rfl notStatus
  | fcRefKhz | fcMinKhz | fcMaxKhz | fcInterval | fcResult =>
    simp only [State.regRead, Counter.writeSrc]
    split <;> rfl
  | _ => rfl

end

/-- Settles O12: a write changes one block, and in it the fields of the registers R67 names. -/
theorem regWriteFrame : Obligations.RegWriteFrame := by
  intro s r r' v other rst osc pll fc
  rw [State.regWrite, State.regRead_traced]
  cases r with
  | rstCtrl =>
    cases r' with
    | rstCtrl => exact absurd rfl other
    | rstDone => exact absurd rfl (rst rfl)
    | _ => rfl
  | oscCtrl =>
    cases r' with
    | oscCtrl => exact absurd rfl other
    | oscStatus => exact absurd rfl (osc rfl)
    | _ => rfl
  | pllCs p => exact State.regRead_setPll rfl rfl (fun e => absurd e other) (fun _ => rfl) (fun _ => rfl) fun _ => rfl
  | pllPwr p =>
    exact State.regRead_setPll rfl rfl (fun e => absurd e (pll p (.inl rfl))) (fun e => absurd e other) (fun _ => rfl)
      fun _ => rfl
  | pllFbdiv p =>
    exact State.regRead_setPll rfl rfl (fun e => absurd e (pll p (.inr rfl))) (fun _ => rfl) (fun e => absurd e other)
      fun _ => rfl
  | pllPrim p => exact State.regRead_setPll rfl rfl (fun _ => rfl) (fun _ => rfl) (fun _ => rfl) fun e => absurd e other
  | clkCtrl d => exact State.regRead_setDom rfl rfl rfl rfl (fun e => absurd e other) fun _ => rfl
  | clkDiv d => exact State.regRead_setDom rfl rfl rfl rfl (fun _ => rfl) fun e => absurd e other
  | fcSrc => exact State.regRead_writeSrc _ other (fc rfl)
  | oscStatus | oscStartup | fcRefKhz | fcMinKhz | fcMaxKhz | fcInterval =>
    cases r' <;> first | exact absurd rfl other | rfl
  | _ => rfl

end Sys2Proof.Machine
end

section
/-! The decoder and the encoder (O1 to O3), an illegal word's rejection (O4), and the state gate of Ready (O9). -/

namespace Sys2Proof.Machine

/-! ### The rows of the opcode table (30_encoding.md R83) -/

/-- Every row's mask holds the opcode bits, so a row accepts only words of its own opcode. -/
theorem Row.opcodeOf_of_accepts {r : Row} (mem : r ∈ rows) {w : Word} (acc : r.accepts w = true) :
    opcodeOf w = opcodeOf r.pat := by
  have ones : ∀ r ∈ rows, opcodeOf r.mask = BitVec.allOnes 8 := by decide
  have masked : w &&& r.mask = r.pat := by simpa [Row.accepts] using acc
  calc opcodeOf w = opcodeOf w &&& opcodeOf r.mask := by rw [ones r mem, BitVec.and_allOnes]
    _ = opcodeOf r.pat := by rw [← masked]; exact BitVec.extractLsb'_and.symm

/-- No two rows have the same opcode. -/
theorem Row.eq_of_opcodeOf_eq {r q : Row} (hr : r ∈ rows) (hq : q ∈ rows) (same : opcodeOf r.pat = opcodeOf q.pat) :
    r = q :=
  List.inj_on_of_nodup_map (f := fun r : Row => opcodeOf r.pat) (by decide) hr hq same

/-- The command a row makes has the row's opcode, whatever its fields hold. -/
theorem Row.opcode_build {r : Row} (mem : r ∈ rows) (w : Word) : opcode (r.build w) = opcodeOf r.pat := by
  simp only [rows, List.mem_cons, List.not_mem_nil, or_false] at mem
  rcases mem with rfl | rfl | rfl | rfl | rfl | rfl | rfl | rfl | rfl <;> rfl

/-- Every command has a row. -/
theorem exists_row (i : Instr) : ∃ r ∈ rows, opcodeOf r.pat = opcode i := by
  cases i <;> simp only [opcode] <;> decide

theorem decode_eq_ok_iff {w : Word} {i : Instr} :
    decode w = .ok i ↔ ∃ r ∈ rows, r.accepts w = true ∧ r.build w = i := by
  rw [decode]
  cases found : rows.find? (fun r => r.accepts w) with
  | some q =>
    have hq := List.mem_of_find?_eq_some found
    have accq : q.accepts w = true := List.find?_some (p := fun r : Row => r.accepts w) found
    constructor
    · intro h
      exact ⟨q, hq, accq, by simpa using h⟩
    · rintro ⟨r, hr, accr, rfl⟩
      have same := (Row.opcodeOf_of_accepts hq accq).symm.trans (Row.opcodeOf_of_accepts hr accr)
      rw [Row.eq_of_opcodeOf_eq hq hr same]
  | none =>
    have none_accepts : ∀ r ∈ rows, r.accepts w ≠ true := by simpa using found
    constructor
    · dsimp only
      split <;> nofun
    · rintro ⟨r, hr, acc, -⟩
      exact absurd acc (none_accepts r hr)

/-- The row of a command's opcode alone decides whether a word is that command. -/
theorem decode_eq_ok_iff_row {r : Row} {i : Instr} {w : Word} (mem : r ∈ rows) (opc : opcodeOf r.pat = opcode i) :
    decode w = .ok i ↔ w &&& r.mask = r.pat ∧ r.build w = i := by
  rw [decode_eq_ok_iff, ← beq_iff_eq (a := w &&& r.mask)]
  constructor
  · rintro ⟨q, hq, acc, rfl⟩
    rw [Row.opcode_build hq] at opc
    rw [Row.eq_of_opcodeOf_eq mem hq opc]
    exact ⟨acc, rfl⟩
  · rintro ⟨acc, rfl⟩
    exact ⟨r, mem, acc, rfl⟩

theorem and_mask_eq_pat_iff_decode {r : Row} (mem : r ∈ rows) (w : Word) :
    w &&& r.mask = r.pat ↔ decode w = .ok (r.build w) := by
  rw [decode_eq_ok_iff_row mem (Row.opcode_build mem w).symm]
  exact (and_iff_left rfl).symm

/-- Of the two reasons of R84, an illegal word has the first iff its opcode is no command's. -/
theorem decode_unassigned_iff {w : Word} {e : Illegal} (bad : decode w = .error e) :
    e = .unassignedOpcode ↔ ∀ i, opcode i ≠ opcodeOf w := by
  have assigned : rows.any (fun r => opcodeOf r.pat == opcodeOf w) = true ↔ ∃ i, opcode i = opcodeOf w := by
    simp only [List.any_eq_true, beq_iff_eq]
    constructor
    · rintro ⟨r, hr, same⟩
      exact ⟨r.build w, (Row.opcode_build hr w).trans same⟩
    · rintro ⟨i, same⟩
      obtain ⟨r, hr, opc⟩ := exists_row i
      exact ⟨r, hr, opc.trans same⟩
  rw [← not_exists, ← assigned]
  rw [decode] at bad
  split at bad
  case h_1 => cases bad
  case h_2 =>
    split at bad
    case isTrue known =>
      cases bad
      exact iff_of_false nofun (not_not_intro known)
    case isFalse unknown =>
      cases bad
      exact iff_of_true rfl unknown

/-- Settles O2: each row by the one rule of a row, an illegal word by the opcodes of the rows. -/
theorem decodeByRow : Obligations.DecodeByRow := by
  intro w
  have byRow : ∀ r ∈ rows, (w &&& r.mask = r.pat ↔ decode w = .ok (r.build w)) :=
    fun r mem => and_mask_eq_pat_iff_decode mem w
  simp only [rows, List.forall_mem_cons] at byRow
  obtain ⟨nop, hold, release, osc, pll, mux, div, fc, bringup, -⟩ := byRow
  exact ⟨nop, hold, release, osc, pll, mux, div, fc, bringup, fun e bad => decode_unassigned_iff bad⟩

/-! ### The formats of the command words (30_encoding.md R81), slice by slice -/

theorem append_eq_slice_iff {k m n l : Nat} {w : BitVec l} {x : BitVec m} {y : BitVec n} :
    x ++ y = w.extractLsb' k (m + n) ↔ x = w.extractLsb' (k + n) m ∧ y = w.extractLsb' k n := by
  rw [← BitVec.extractLsb'_append_extractLsb'_eq_extractLsb' rfl]
  constructor
  · intro h
    have high := congrArg (BitVec.extractLsb' n m) h
    have low := congrArg (BitVec.extractLsb' 0 n) h
    simp only [BitVec.extractLsb'_append_eq_left, BitVec.extractLsb'_append_eq_right] at high low
    exact ⟨high, low⟩
  · rintro ⟨rfl, rfl⟩
    rfl

theorem PllId.bit_sys : PllId.sys.bit = 0#1 := rfl

theorem Path.bit_reference : Path.reference.bit = 0#1 := rfl

/-- A slice of one bit. -/
theorem extractLsb'_one (w : Word) (k : Nat) : w.extractLsb' k 1 = BitVec.ofBool (w.getLsbD k) := by
  ext i hi
  obtain rfl : i = 0 := by omega
  simp

theorem PllId.bit_eq_slice_iff {p : PllId} {w : Word} {k : Nat} :
    p.bit = w.extractLsb' k 1 ↔ PllId.ofBit (w.getLsbD k) = p := by
  rw [extractLsb'_one]
  cases p <;> cases w.getLsbD k <;> decide

theorem Path.bit_eq_slice_iff {q : Path} {w : Word} {k : Nat} :
    q.bit = w.extractLsb' k 1 ↔ Path.ofBit (w.getLsbD k) = q := by
  rw [extractLsb'_one]
  cases q <;> cases w.getLsbD k <;> decide

theorem ofBool_eq_slice_iff {b : Bool} {w : Word} {k : Nat} :
    BitVec.ofBool b = w.extractLsb' k 1 ↔ w.getLsbD k = b := by
  rw [extractLsb'_one]
  cases b <;> cases w.getLsbD k <;> decide

/-- A mask of ones keeps every bit. -/
theorem and_ones {n : Nat} {x m : BitVec n} (ones : m = BitVec.allOnes n) : x &&& m = x := by
  rw [ones, BitVec.and_allOnes]

/-! A word of a format has the row's mask bits of that format with zero fields, and the format's fields: the mask keeps
whole the slices of the opcode and of the must-be-zero bits and clears the others. -/

section
variable {w : Word} {opc : BitVec 8}

theorem eq_formatZ_iff : w = formatZ opc ↔ w &&& 0xFFFFFFFF#32 = formatZ opc := by
  rw [and_ones (m := 0xFFFFFFFF#32) rfl]

theorem eq_formatP_slices {p : PllId} {refdiv : BitVec 6} {pd1 pd2 : BitVec 3} :
    w = formatP opc p refdiv pd1 pd2 ↔
      opc = w.extractLsb' 24 8 ∧ 0#5 = w.extractLsb' 19 5 ∧ pd2 = w.extractLsb' 16 3 ∧ 0#1 = w.extractLsb' 15 1 ∧
        pd1 = w.extractLsb' 12 3 ∧ 0#2 = w.extractLsb' 10 2 ∧ refdiv = w.extractLsb' 4 6 ∧ 0#3 = w.extractLsb' 1 3 ∧
        p.bit = w.extractLsb' 0 1 := by
  rw [← BitVec.extractLsb'_eq_self (x := w), eq_comm, formatP]
  iterate 8 rw [append_eq_slice_iff]
  simp only [zero_add, Nat.reduceAdd, and_assoc, BitVec.extractLsb'_eq_self]

theorem eq_formatC_slices {dom : BitVec 3} {main : Path} {auxsrc : BitVec 3} :
    w = formatC opc dom main auxsrc ↔
      opc = w.extractLsb' 24 8 ∧ 0#13 = w.extractLsb' 11 13 ∧ auxsrc = w.extractLsb' 8 3 ∧ 0#3 = w.extractLsb' 5 3 ∧
        main.bit = w.extractLsb' 4 1 ∧ 0#1 = w.extractLsb' 3 1 ∧ dom = w.extractLsb' 0 3 := by
  rw [← BitVec.extractLsb'_eq_self (x := w), eq_comm, formatC]
  iterate 6 rw [append_eq_slice_iff]
  simp only [zero_add, Nat.reduceAdd, and_assoc, BitVec.extractLsb'_eq_self]

theorem eq_formatF_slices {src : BitVec 8} :
    w = formatF opc src ↔
      opc = w.extractLsb' 24 8 ∧ 0#16 = w.extractLsb' 8 16 ∧ src = w.extractLsb' 0 8 := by
  rw [← BitVec.extractLsb'_eq_self (x := w), eq_comm, formatF]
  iterate 2 rw [append_eq_slice_iff]
  simp only [zero_add, Nat.reduceAdd, and_assoc, BitVec.extractLsb'_eq_self]

theorem eq_formatB_slices {v : Bool} :
    w = formatB opc v ↔
      opc = w.extractLsb' 24 8 ∧ 0#23 = w.extractLsb' 1 23 ∧ BitVec.ofBool v = w.extractLsb' 0 1 := by
  rw [← BitVec.extractLsb'_eq_self (x := w), eq_comm, formatB]
  iterate 2 rw [append_eq_slice_iff]
  simp only [zero_add, Nat.reduceAdd, and_assoc, BitVec.extractLsb'_eq_self]

theorem eq_formatP_iff {p : PllId} {refdiv : BitVec 6} {pd1 pd2 : BitVec 3} :
    w = formatP opc p refdiv pd1 pd2 ↔
      w &&& 0xFFF88C0E#32 = formatP opc .sys 0#6 0#3 0#3 ∧
        fieldPll w = p ∧ fieldRefdiv w = refdiv ∧ fieldPd1 w = pd1 ∧ fieldPd2 w = pd2 := by
  rw [eq_formatP_slices, eq_formatP_slices]
  simp (disch := decide) only [BitVec.extractLsb'_and, BitVec.reduceExtractLsb', and_ones, BitVec.and_zero, and_true,
    true_and, PllId.bit_sys, PllId.bit_eq_slice_iff, fieldPll, fieldRefdiv, fieldPd1, fieldPd2]
  grind

theorem eq_formatC_iff {dom : BitVec 3} {main : Path} {auxsrc : BitVec 3} :
    w = formatC opc dom main auxsrc ↔
      w &&& 0xFFFFF8E8#32 = formatC opc 0#3 .reference 0#3 ∧
        fieldDom w = dom ∧ fieldMain w = main ∧ fieldAuxsrc w = auxsrc := by
  rw [eq_formatC_slices, eq_formatC_slices]
  simp (disch := decide) only [BitVec.extractLsb'_and, BitVec.reduceExtractLsb', and_ones, BitVec.and_zero, and_true,
    true_and, Path.bit_reference, Path.bit_eq_slice_iff, fieldDom, fieldMain, fieldAuxsrc]
  grind

theorem eq_formatF_iff {src : BitVec 8} :
    w = formatF opc src ↔ w &&& 0xFFFFFF00#32 = formatF opc 0#8 ∧ fieldSrc w = src := by
  rw [eq_formatF_slices, eq_formatF_slices]
  simp (disch := decide) only [BitVec.extractLsb'_and, BitVec.reduceExtractLsb', and_ones, BitVec.and_zero, and_true,
    fieldSrc]
  grind

theorem eq_formatB_iff {v : Bool} :
    w = formatB opc v ↔ w &&& 0xFFFFFFFE#32 = formatB opc false ∧ fieldV w = v := by
  rw [eq_formatB_slices, eq_formatB_slices]
  simp (disch := decide) only [BitVec.extractLsb'_and, BitVec.reduceExtractLsb', and_ones, BitVec.and_zero,
    BitVec.ofBool_false, ofBool_eq_slice_iff, fieldV]
  grind

end

/-- Settles O1: the row of the command's opcode says when a word decodes to it, its format when the word encodes it. -/
theorem decodeEncodeAgree : Obligations.DecodeEncodeAgree := by
  intro i w
  cases i with
  | nop =>
    rw [decode_eq_ok_iff_row (r := rows[0]) (List.getElem_mem _) rfl, encode, eq_formatZ_iff]
    exact and_iff_left rfl
  | rstHold =>
    rw [decode_eq_ok_iff_row (r := rows[1]) (List.getElem_mem _) rfl, encode, eq_formatZ_iff]
    exact and_iff_left rfl
  | rstRelease =>
    rw [decode_eq_ok_iff_row (r := rows[2]) (List.getElem_mem _) rfl, encode, eq_formatZ_iff]
    exact and_iff_left rfl
  | oscStart =>
    rw [decode_eq_ok_iff_row (r := rows[3]) (List.getElem_mem _) rfl, encode, eq_formatZ_iff]
    exact and_iff_left rfl
  | pllCfg p refdiv pd1 pd2 =>
    rw [decode_eq_ok_iff_row (r := rows[4]) (List.getElem_mem _) rfl, encode, eq_formatP_iff]
    exact and_congr_right' (Instr.pllCfg.injEq ..).to_iff
  | muxSwitch dom main auxsrc =>
    rw [decode_eq_ok_iff_row (r := rows[5]) (List.getElem_mem _) rfl, encode, eq_formatC_iff]
    exact and_congr_right' (Instr.muxSwitch.injEq ..).to_iff
  | divApply dom main auxsrc =>
    rw [decode_eq_ok_iff_row (r := rows[6]) (List.getElem_mem _) rfl, encode, eq_formatC_iff]
    exact and_congr_right' (Instr.divApply.injEq ..).to_iff
  | fcMeasure src =>
    rw [decode_eq_ok_iff_row (r := rows[7]) (List.getElem_mem _) rfl, encode, eq_formatF_iff]
    exact and_congr_right' (Instr.fcMeasure.injEq ..).to_iff
  | bringup v =>
    rw [decode_eq_ok_iff_row (r := rows[8]) (List.getElem_mem _) rfl, encode, eq_formatB_iff]
    exact and_congr_right' (Instr.bringup.injEq ..).to_iff

/-- Settles O3: the words of commands are their encodings; of the three others, one has no command's opcode. -/
theorem sampleWords : Obligations.SampleWords := by
  have decoded : ∀ i, decode (encode i) = .ok i := fun i => (decodeEncodeAgree i _).mpr rfl
  exact ⟨decoded .nop, decoded .rstHold, decoded .rstRelease, decoded .oscStart, decoded (.pllCfg .sys 1#6 6#3 2#3),
    decoded (.pllCfg .aux 63#6 7#3 7#3), decoded (.muxSwitch 1#3 .auxiliary 1#3),
    decoded (.divApply 4#3 .auxiliary 2#3), decoded (.fcMeasure 255#8), decoded (.bringup true), by decide, by decide, by decide⟩

/-! ### An illegal word (30_encoding.md R84) -/

theorem State.engineStep_illegal {s : State} (busy : s.busy = true) (alive : s.fsm ≠ .failed)
    (bad : ∀ i, decode s.fetch ≠ .ok i) : s.engineStep = .next s.rejectIllegal := by
  rw [State.engineStep, if_pos ((engineActive_iff s).mpr ⟨busy, alive⟩)]
  split
  case h_1 i good => exact absurd good (bad i)
  case h_2 => rfl

/-- Settles O4: with no move scheduled the engine moves, and it rejects the word it has latched. -/
theorem illegalWordRejected : Obligations.IllegalWordRejected := by
  intro s w _ alive noMove bad
  rw [step_of_noMove (s := s.issue w) noMove, State.engineStep_illegal (s := s.issue w) rfl alive bad]
  rfl

/-! ### The state gate of Ready (30_encoding.md R87) -/

theorem State.gate_locked {s : State} (ready : s.fsm = .ready) (opc : BitVec 8) (unit : BitVec 4)
    (run : Host.Outcome State Fault Refusal) :
    s.gate false opc unit run = .next (s.reject ⟨.locked, 8#32⟩ opc unit) := by
  rw [State.gate, ready]
  rfl

/-- Ready rejects every command it does not accept at the command's first micro-operation. -/
theorem exec_locked {i : Instr} {s : State} (ready : s.fsm = .ready) (sub : s.sub = 0#8) (start : s.step = 0#8)
    (refused : acceptedInReady i = false) :
    exec i s = .next (s.reject ⟨.locked, 8#32⟩ (opcode i) (unitOf i)) := by
  cases own : isBringup i with
  | false => rw [exec_command own, State.command, if_pos start, refused, State.gate_locked ready]
  | true =>
    cases i with
    | bringup verify =>
      change execBringup verify s = _
      rw [execBringup, if_pos ⟨sub, start⟩, State.gate_locked ready]
      rfl
    | _ => cases own

theorem acceptedInReady_iff {i : Instr} : acceptedInReady i = true ↔ i = .nop ∨ ∃ src, i = .fcMeasure src := by
  cases i <;> simp [acceptedInReady]

/-- Settles O9: the rejection of `exec_locked`, which leaves the position at 0 as it was. -/
theorem readyRefuses : Obligations.ReadyRefuses := by
  intro i s ready sub start notNop notFc
  have refused : acceptedInReady i = false := by
    rw [← Bool.not_eq_true, acceptedInReady_iff]
    rintro (nop | ⟨src, fc⟩)
    · exact notNop nop
    · exact notFc src fc
  rw [exec_locked ready sub start refused, State.reject, State.endCommand, sub, start]
  cases i <;> rfl

end Sys2Proof.Machine
end

section
/-! The reset controller, micro-operation by micro-operation (O14, O15): the command's step from its first or a later
micro-operation, and the RegWrite of RST_CTRL while the reset lines are legal. -/

namespace Sys2Proof.Machine

/-! ### A command of its own at its first and at a later micro-operation -/

/-- The state gate opens in PowerOnReset, and in Ready for the commands Ready accepts (30_encoding.md R87). -/
theorem State.gate_open {s : State} {inReady : Bool} (fsm : s.fsm = .powerOnReset ∨ (s.fsm = .ready ∧ inReady = true))
    (opc : BitVec 8) (unit : BitVec 4) (run : Host.Outcome State Fault Refusal) : s.gate inReady opc unit run = run := by
  rcases fsm with reset | ⟨ready, rfl⟩
  · rw [State.gate, reset]
  · rw [State.gate, ready]
    rfl

section
variable {s : State} {i : Instr} {o : Op}

/-- A command past its gate is what its operation's first micro-operation makes it. -/
theorem exec_start (own : isBringup i = false) (op : s.opOf i = some o) (start : s.step = 0#8)
    (fsm : s.fsm = .powerOnReset ∨ (s.fsm = .ready ∧ acceptedInReady i = true)) :
    exec i s = s.commandStep (opcode i) (unitOf i) (startOp o s) := by
  have micro : s.microOf i = startOp o s := by simp only [State.microOf, op, runOp_start start]
  rw [exec_eq_command own, State.command, if_pos start, State.gate_open fsm, micro]

/-- Later on it is what the micro-operation of the hidden state makes it, whatever FSM is. -/
theorem exec_later (own : isBringup i = false) (op : s.opOf i = some o) (later : s.step ≠ 0#8)
    (kind : o.sameKind s.work = true) :
    exec i s = s.commandStep (opcode i) (unitOf i) (workStep s.work s.step.toNat s) := by
  have micro : s.microOf i = workStep s.work s.step.toNat s := by
    simp only [State.microOf, op, runOp_later later, kind, if_true]
  rw [exec_eq_command own, State.command, if_neg later, micro]

/-- The step of RST_HOLD after its first micro-operation (40_reset_controller.md R101). -/
theorem exec_rstHold_later {set : Word} (work : s.work = .hold set) (later : s.step ≠ 0#8) :
    exec .rstHold s = s.commandStep 0x10#8 0#4 (holdStep set s.step.toNat s) := by
  rw [exec_later rfl rfl later (by rw [work]; rfl), work]
  rfl

/-- The step of RST_RELEASE after its first micro-operation (40_reset_controller.md R102). -/
theorem exec_rstRelease_later {set : Word} (work : s.work = .release set) (later : s.step ≠ 0#8) :
    exec .rstRelease s = s.commandStep 0x11#8 0#4 (releaseStep set s.step.toNat s) := by
  rw [exec_later rfl rfl later (by rw [work]; rfl), work]
  rfl

end

/-! ### RST_CTRL and RST_DONE while the reset lines are legal (10_state.md R22, R23, R51) -/

/-- A mask that keeps a value whole, and one whose complement leaves nothing of it, are the same. -/
theorem and_eq_left_iff {n : Nat} {a m : BitVec n} : a &&& m = a ↔ a &&& ~~~m = 0#n := by
  constructor
  · intro inside
    rw [← inside, BitVec.and_assoc, BitVec.and_not_self]
    exact BitVec.and_zero
  · intro outside
    calc a &&& m = a &&& m ||| a &&& ~~~m := by rw [outside, BitVec.or_zero]
      _ = a := by rw [← BitVec.and_or_distrib_left, BitVec.or_not_self, BitVec.and_allOnes]

section
variable {s : State} (lines : s.ResetLines) {set : Word}
include lines

theorem State.ResetLines.regRead_rstCtrl : s.regRead .rstCtrl = s.rstCtrl := and_eq_left_iff.mpr lines.held

theorem State.ResetLines.regRead_rstDone : s.regRead .rstDone = s.rstDone := and_eq_left_iff.mpr lines.done

/-- Holding a set of PERIPH_ALL clears just its RST_DONE bits: the peripherals held before had none. -/
theorem State.ResetLines.regWrite_hold (inAll : set &&& ~~~s.params.periphAll = 0#32) :
    s.regWrite .rstCtrl (s.rstCtrl ||| set) =
      { s with
        rstCtrl := s.rstCtrl ||| set, rstDone := s.rstDone &&& ~~~set,
        trace := s.trace ++ [.write .rstCtrl (s.rstCtrl ||| set)] } := by
  have stored : (s.rstCtrl ||| set) &&& s.params.periphAll = s.rstCtrl ||| set := by
    rw [BitVec.and_or_distrib_right, and_eq_left_iff.mpr lines.held, and_eq_left_iff.mpr inAll]
  have notHeld : s.rstDone &&& ~~~s.rstCtrl = s.rstDone := by
    rw [and_eq_left_iff, BitVec.not_not, lines.exclusive]
  rw [State.regWrite_rstCtrl, stored, BitVec.not_or, ← BitVec.and_assoc, notHeld]

/-- Releasing a set clears no RST_DONE bit: what stays held had none. -/
theorem State.ResetLines.regWrite_release :
    s.regWrite .rstCtrl (s.rstCtrl &&& ~~~set) =
      { s with
        rstCtrl := s.rstCtrl &&& ~~~set, trace := s.trace ++ [.write .rstCtrl (s.rstCtrl &&& ~~~set)] } := by
  have stored : s.rstCtrl &&& ~~~set &&& s.params.periphAll = s.rstCtrl &&& ~~~set := by
    rw [BitVec.and_assoc, BitVec.and_comm (~~~set), ← BitVec.and_assoc, and_eq_left_iff.mpr lines.held]
  have notHeld : s.rstDone &&& ~~~(s.rstCtrl &&& ~~~set) = s.rstDone := by
    rw [and_eq_left_iff, BitVec.not_not, ← BitVec.and_assoc, lines.exclusive, BitVec.zero_and]
  rw [State.regWrite_rstCtrl, stored, notHeld]

end

/-- Settles O14: the validation, the write that gains the set, the end with the new RST_CTRL. -/
theorem rstHoldRuns : Obligations.RstHoldRuns := by
  intro s lines outside
  refine ⟨fun start fsm => ?validate, fun set work inAll at_ => ?write, fun set work at_ => ?finish⟩
  case validate =>
    rw [exec_start rfl rfl start (.inl fsm), startOp, startHold]
    split <;> rfl
  case write =>
    rw [exec_rstHold_later work (by simp [at_]), at_]
    change Host.Outcome.next ((s.regWrite .rstCtrl (s.regRead .rstCtrl ||| set)).goto 2#8) = _
    rw [lines.regRead_rstCtrl, lines.regWrite_hold inAll]
    rfl
  case finish =>
    rw [exec_rstHold_later work (by simp [at_]), at_]
    change Host.Outcome.next (s.setX 4 (s.regRead .rstCtrl)).complete = _
    rw [lines.regRead_rstCtrl]

/-! ### The clock dependencies (10_state.md R41, 40_reset_controller.md R102) -/

/-- The mask of RST_RELEASE at every bit: a peripheral above 6 has no clock dependency. -/
theorem State.unreleasable_bit (s : State) (p : Nat) : s.unreleasable.getLsbD p = !s.periphReleasable p := by
  by_cases small : p ≤ 6
  · exact s.unreleasable_getLsbD small
  · have noDep : clockDep p = none := Option.eq_none_iff_forall_not_mem.mpr fun d dep => small (clockDep_le dep)
    rw [State.periphReleasable, noDep, State.unreleasable]
    iterate 7 rw [BitVec.getLsbD_append, if_neg (by omega)]
    exact BitVec.getLsbD_zero

/-- Settles O15: the two validations, the write that loses the set, the satisfied Wait, the end with RST_DONE. -/
theorem rstReleaseRuns : Obligations.RstReleaseRuns := by
  intro s lines outside bad
  refine ⟨fun start fsm => ?validate, fun p => ?mask, fun set work at_ => ?write, fun set work at_ done => ?wait,
    fun set work at_ => ?finish⟩
  case validate =>
    rw [exec_start rfl rfl start (.inl fsm), startOp, startRelease]
    split
    · rfl
    · split <;> rfl
  case mask =>
    rw [s.unreleasable_bit, State.periphReleasable]
    cases clockDep p <;> rfl
  case write =>
    rw [exec_rstRelease_later work (by simp [at_]), at_]
    change Host.Outcome.next ((s.regWrite .rstCtrl (s.regRead .rstCtrl &&& ~~~set)).goto 2#8) = _
    rw [lines.regRead_rstCtrl, lines.regWrite_release]
    rfl
  case wait =>
    rw [exec_rstRelease_later work (by simp [at_]), at_]
    change s.commandStep _ _ (s.wait .resetDone .rstDone (fun v => v &&& set == set) 3#8) = _
    rw [State.wait, if_pos (by rw [lines.regRead_rstDone, done, beq_self_eq_true]), State.waited, lines.regRead_rstDone]
    rfl
  case finish =>
    rw [exec_rstRelease_later work (by simp [at_]), at_]
    change Host.Outcome.next (s.setX 4 (s.regRead .rstDone)).complete = _
    rw [lines.regRead_rstDone]

end Sys2Proof.Machine
end

section
/-! What a command leaves unchanged: the registers a micro-operation and an ending of a command may change, the
surroundings no command changes, and the frame of NOP, RST_HOLD, RST_RELEASE and OSC_START (O31). -/

namespace Sys2Proof.Machine

/-! ### What the shared operations leave in the registers -/

/-- The registers a RegWrite of `r` may change (20_memory.md R67). -/
def Reg.written (r : Reg) : List Reg :=
  match r with
  | .rstCtrl => [.rstCtrl, .rstDone]
  | .oscCtrl => [.oscCtrl, .oscStatus]
  | .pllPwr p => [.pllPwr p, .pllCs p]
  | .pllFbdiv p => [.pllFbdiv p, .pllCs p]
  | .fcSrc => [.fcSrc, .fcStatus]
  | r => [r]

section
variable {s : State} {r : Reg}

theorem State.regRead_regWrite {w : Reg} (v : Word) (outside : r ∉ w.written) :
    (s.regWrite w v).regRead r = s.regRead r := by
  have apart : ∀ q ∈ w.written, r ≠ q := fun q mem e => outside (e ▸ mem)
  refine regWriteFrame s w r v (apart w ?self) ?rst ?osc ?pll ?fc
  case self => cases w <;> simp [Reg.written]
  case pll => rintro p (rfl | rfl) <;> exact apart _ (by simp [Reg.written])
  all_goals
    rintro rfl
    exact apart _ (by simp [Reg.written])

theorem State.regRead_goto (k : BitVec 8) (notStatus : r ≠ .status) : (s.goto k).regRead r = s.regRead r := by
  cases r <;> first | rfl | exact absurd rfl notStatus

/-- No register shows the hidden state. -/
theorem State.regRead_keep (w : Work) : (s.keep w).regRead r = s.regRead r := by
  cases r <;> rfl

theorem State.regRead_polled (notPollcnt : r ≠ .pollcnt) : s.polled.regRead r = s.regRead r := by
  cases r <;> first | rfl | exact absurd rfl notPollcnt

theorem State.regRead_waited (id : WaitId) (q : Reg) (k : BitVec 8) (notStatus : r ≠ .status)
    (notPollcnt : r ≠ .pollcnt) : (s.waited id q k).regRead r = s.regRead r := by
  cases r <;> first | rfl | exact absurd rfl notStatus | exact absurd rfl notPollcnt

theorem State.regRead_latchOscFreq (place : Config.OscFreqLatch) (f : Word) (notFreq : r ≠ .oscFreq) :
    (s.latchOscFreq place f).regRead r = s.regRead r := by
  cases r <;> first | rfl | exact absurd rfl notFreq

theorem State.regRead_describePll {p : PllId} (vcoHz outHz : Word) (notVco : r ≠ .pllVcoHz p) (notOut : r ≠ .pllOutHz p) :
    (s.describePll p vcoHz outHz).regRead r = s.regRead r := by
  cases r with
  | pllVcoHz q | pllOutHz q | pllCs q | pllPwr q | pllFbdiv q | pllPrim q =>
    by_cases other : q = p
    · subst other
      simp_all [State.regRead, Pll.csWord, Pll.pwrWord, Pll.fbdivWord, Pll.primWord]
    · simp [State.regRead, other]
  | _ => rfl

theorem State.regRead_describeDom {d : Dom} (hz : Word) (notHz : r ≠ .domHz d) (notValid : r ≠ .domValid) :
    (s.describeDom d hz).regRead r = s.regRead r := by
  cases r with
  | domValid => exact absurd rfl notValid
  | domHz e | domMeasKhz e | clkCtrl e | clkDiv e | clkSelected e =>
    by_cases other : e = d
    · subst other
      simp_all [State.regRead, Domain.ctrlWord, Domain.mainOf, Domain.enableOf, Domain.selectedOf]
    · simp [State.regRead, other]
  | _ => rfl

/-- No register shows the hidden state of the counter. -/
theorem State.regRead_forget : { s with fc := s.fc.forget }.regRead r = s.regRead r := by
  cases r <;> rfl

theorem State.regRead_setX {i : Fin 8} (v : Word) (other : r ≠ .x i) : (s.setX i v).regRead r = s.regRead r := by
  cases r with
  | x j =>
    have apart : i.val ≠ j.val := fun e => other (congrArg Reg.x (Fin.ext e.symm))
    exact Vector.getElem_set_ne i.isLt j.isLt apart
  | _ => rfl

theorem State.regRead_setResults {rs : List (Fin 8 × Word)} (other : ∀ i ∈ rs.map Prod.fst, r ≠ .x i) :
    (s.setResults rs).regRead r = s.regRead r := by
  induction rs generalizing s with
  | nil => rfl
  | cons result rest ih =>
    simp only [List.map_cons, List.forall_mem_cons] at other
    exact (ih other.2).trans (State.regRead_setX _ other.1)

theorem State.regRead_complete (notStatus : r ≠ .status) (notPollcnt : r ≠ .pollcnt) :
    s.complete.regRead r = s.regRead r := by
  cases r <;> first | rfl | exact absurd rfl notStatus | exact absurd rfl notPollcnt

theorem State.regRead_reject (j : Rejection) (opc : BitVec 8) (unit : BitVec 4) (outside : r ∉ commonRegs) :
    (s.reject j opc unit).regRead r = s.regRead r := by
  cases r <;> first | rfl | exact absurd (by simp [commonRegs]) outside

theorem State.regRead_fatal (j : Rejection) (stage : BitVec 4) (opc : BitVec 8) (unit : BitVec 4)
    (outside : r ∉ commonRegs) : (s.fatal j stage opc unit).regRead r = s.regRead r := by
  cases r <;> first | rfl | exact absurd (by simp [commonRegs]) outside

end

/-! ### What a micro-operation leaves in the registers -/

/-- The registers the micro-operations of the operation in flight may change, but for STATUS, POLLCNT and the results. -/
def Work.writes : Work → List Reg
  | .idle => []
  | .hold _ => [.rstCtrl, .rstDone]
  | .release _ => [.rstCtrl, .rstDone]
  | .osc _ _ => [.oscFreq, .oscCtrl, .oscStatus, .oscStartup]
  | .pll p _ _ _ _ _ => [.pllCs p, .pllPwr p, .pllFbdiv p, .pllPrim p, .pllVcoHz p, .pllOutHz p]
  | .mux d _ _ _ => [.clkCtrl d]
  | .div d _ _ _ _ _ _ _ _ => [.clkCtrl d, .clkDiv d, .domHz d, .domValid]
  | .fc _ _ => [.fcRefKhz, .fcMinKhz, .fcMaxKhz, .fcInterval, .fcSrc, .fcStatus]

/-- The result registers of the operation in flight (10_state.md R11). -/
def Work.results : Work → List (Fin 8)
  | .idle => []
  | .hold _ => [4]
  | .release _ => [4]
  | .osc _ _ => [4, 5]
  | .pll _ _ _ _ _ _ => [4, 5, 6, 7]
  | .mux _ _ _ _ => [4, 5]
  | .div _ _ _ _ _ _ _ _ _ => [4, 5]
  | .fc _ _ => [4, 5]

section
variable {s u : State} {w : Work} {k : Nat} {results : List (Fin 8 × Word)} {r : Reg}

/-- A micro-operation that goes on changes STATUS, POLLCNT and the registers of its operation. -/
theorem Ran.regRead_eq (ran : Ran s w k (.cont u)) (notStatus : r ≠ .status) (notPollcnt : r ≠ .pollcnt)
    (outside : r ∉ w.writes) : u.regRead r = s.regRead r := by
  have write : ∀ q v, q.written ⊆ w.writes → (s.regWrite q v).regRead r = s.regRead r :=
    fun q v within => State.regRead_regWrite v fun mem => outside (within mem)
  cases ran with
  | waited => exact State.regRead_waited _ _ _ notStatus notPollcnt
  | polled => exact State.regRead_polled notPollcnt
  | div3Settling => exact State.regRead_keep _
  | osc3 =>
    rw [State.regRead_goto _ notStatus, State.regRead_latchOscFreq _ _ (by simp_all [Work.writes])]
    exact write _ _ (by simp [Reg.written, Work.writes])
  | _ =>
    simp only [State.regRead_goto _ notStatus, State.regRead_keep, State.regRead_traced, State.writeMain,
      State.writeAuxsrc, State.writeEnable] <;>
      exact write _ _ (by simp [Reg.written, Work.writes])

/-- The last micro-operation changes the description registers of its operation at most. -/
theorem Ran.finish_regRead_eq (ran : Ran s w k (.finish u results)) (outside : r ∉ w.writes) :
    u.regRead r = s.regRead r := by
  rcases ran.finish_cases with ⟨rfl, _⟩ | ⟨f, delay, rfl, _, rfl⟩ | ⟨p, _, _, _, _, _, rfl, _, rfl⟩ |
    ⟨d, _, _, _, _, _, _, _, _, rfl, _, rfl⟩ | ⟨_, _, _, _, rfl⟩
  · rfl
  · exact State.regRead_latchOscFreq _ _ (by simp_all [Work.writes])
  · exact State.regRead_describePll _ _ (by simp_all [Work.writes]) (by simp_all [Work.writes])
  · exact State.regRead_describeDom _ (by simp_all [Work.writes]) (by simp_all [Work.writes])
  · exact State.regRead_forget

theorem Ran.finish_results (ran : Ran s w k (.finish u results)) : results.map Prod.fst = w.results := by
  cases ran <;> rfl

/-! ### What a micro-operation leaves beside the registers, and of the environment's bits -/

theorem State.sameSurroundings_of_eq {s t : State} (params : t.params = s.params) (overrun : t.overrun = s.overrun)
    (schedule : t.schedule = s.schedule) (busReply : t.busReply = s.busReply) (trace : t.trace = s.trace) :
    s.sameSurroundings t :=
  ⟨params, overrun, schedule, busReply, [], by rw [trace, List.append_nil]⟩

theorem Ran.trace_grows (ran : Ran s w k (.cont u)) : ∃ es, u.trace = s.trace ++ es := by
  cases ran <;> simp [State.writeMain, State.writeAuxsrc, State.writeEnable]

theorem Ran.sameSurroundings (ran : Ran s w k (.cont u)) : s.sameSurroundings u :=
  ⟨ran.params_eq, ran.overrun_eq, ran.schedule_eq, ran.busReply_eq, ran.trace_grows⟩

theorem Ran.finish_sameSurroundings (ran : Ran s w k (.finish u results)) : s.sameSurroundings u := by
  cases ran <;> exact State.sameSurroundings_of_eq rfl rfl rfl rfl rfl

/-- No micro-operation changes STABLE (10_state.md R24, R52). -/
theorem Ran.stable_eq (ran : Ran s w k (.cont u)) : u.osc.stable = s.osc.stable := by
  by_cases osc : ∃ f delay, w = .osc f delay
  · obtain ⟨f, delay, rfl⟩ := osc
    cases ran <;> rfl
  · rw [ran.osc_eq fun f delay e => osc ⟨f, delay, e⟩]

/-- No micro-operation sets an RST_DONE bit: a RegWrite of RST_CTRL only clears some (10_state.md R51). -/
theorem Ran.rstDone_le (ran : Ran s w k (.cont u)) : u.rstDone &&& ~~~s.rstDone = 0#32 := by
  by_cases lines : (∃ set, w = .hold set) ∨ ∃ set, w = .release set
  · have cleared : ∀ v, (s.rstDone &&& v) &&& ~~~s.rstDone = 0#32 := fun v => by
      rw [BitVec.and_comm s.rstDone, BitVec.and_assoc, BitVec.and_not_self]
      exact BitVec.and_zero
    rcases lines with ⟨set, rfl⟩ | ⟨set, rfl⟩ <;> cases ran
    case inl.hold1 | inr.release1 => exact cleared _
    all_goals exact BitVec.and_not_self _
  · rw [not_or, not_exists, not_exists] at lines
    rw [ran.rstDone_eq lines.1 lines.2]
    exact BitVec.and_not_self _

end

/-! ### What a step of a command leaves -/

section
variable {s t : State} {i : Instr}

theorem State.sameSurroundings.trans {u : State} (h : s.sameSurroundings u) (g : u.sameSurroundings t) :
    s.sameSurroundings t := by
  obtain ⟨params, overrun, schedule, busReply, es, trace⟩ := h
  obtain ⟨params', overrun', schedule', busReply', es', trace'⟩ := g
  exact ⟨params'.trans params, overrun'.trans overrun, schedule'.trans schedule, busReply'.trans busReply, es ++ es',
    by rw [trace', trace, List.append_assoc]⟩

theorem Executed.sameSurroundings (h : Executed s i t) : s.sameSurroundings t := by
  refine h.keeps (P := s.sameSurroundings) ?start ?cont ?finish ?next ?nop ?reject ?fatal ?ended
  case cont => exact fun _ _ _ _ _ ran => ran.sameSurroundings
  case finish =>
    exact fun _ u _ _ _ _ ran => ran.finish_sameSurroundings.trans
      (State.sameSurroundings_of_eq (by simp) (by simp) (by simp) (by simp) (by simp))
  case next =>
    exact fun _ u _ _ _ _ _ _ ran => ran.finish_sameSurroundings.trans
      (State.sameSurroundings_of_eq (by simp) (by simp) (by simp) (by simp) (by simp))
  all_goals
    intros
    exact State.sameSurroundings_of_eq rfl rfl rfl rfl rfl

/-- STABLE and the bits of RST_DONE are set by the environment alone (10_state.md R51, R52): no step of a command changes
the one or sets one of the others. -/
theorem Executed.stable_rstDone (h : Executed s i t) :
    t.osc.stable = s.osc.stable ∧ t.rstDone &&& ~~~s.rstDone = 0#32 := by
  have same : ∀ u : State, u.osc = s.osc → u.rstDone = s.rstDone →
      u.osc.stable = s.osc.stable ∧ u.rstDone &&& ~~~s.rstDone = 0#32 := fun u osc done =>
    ⟨by rw [osc], by rw [done]; exact BitVec.and_not_self _⟩
  refine h.keeps (P := fun u => u.osc.stable = s.osc.stable ∧ u.rstDone &&& ~~~s.rstDone = 0#32)
    ?start ?cont ?finish ?next ?nop ?reject ?fatal ?ended
  case cont => exact fun _ _ _ _ _ ran => ⟨ran.stable_eq, ran.rstDone_le⟩
  case finish =>
    exact fun _ u _ _ _ _ ran => same _ (by simp [ran.finish_sameControl.osc]) (by simp [ran.finish_sameControl.rstDone])
  case next =>
    exact fun _ u _ _ _ _ _ _ ran =>
      same _ (by simp [ran.finish_sameControl.osc]) (by simp [ran.finish_sameControl.rstDone])
  all_goals
    intros
    exact same _ rfl rfl

/-- A property that every micro-operation and every ending of a command of its own gives is one of each next state of
the command. -/
theorem Executed.keeps_own {P : State → Prop} (own : isBringup i = false) (h : Executed s i t)
    (start : ∀ w, P ((s.keep w).goto 1#8))
    (cont : ∀ o u, s.opOf i = some o → o.sameKind s.work = true → Ran s s.work s.step.toNat (.cont u) → P u)
    (finish : ∀ o u rs, s.opOf i = some o → o.sameKind s.work = true → Ran s s.work s.step.toNat (.finish u rs) →
      P (u.setResults rs).complete)
    (nop : i = .nop → P s.complete) (reject : ∀ r opc unit, P (s.reject r opc unit))
    (fatal : ∀ r stage opc unit, P (s.fatal r stage opc unit)) : P t := by
  cases h with
  | nop => exact nop rfl
  | locked | rejected => exact reject _ _ _
  | cont op gate run =>
    rcases runOp_cont run with ⟨_, w, _, rfl⟩ | ⟨_, kind, ran⟩
    · exact start w
    · exact cont _ _ op kind ran
  | finished _ op later kind ran => exact finish _ _ _ op kind ran
  | timedOut => exact fatal _ _ _ _
  | subFinished | subRejected | subTimedOut | bringupEnd => cases own

/-- A command of its own leaves FSM, unless it ends it in Failed (60_exceptions.md R202). -/
theorem Executed.own_fsm (own : isBringup i = false) (h : Executed s i t) : t.fsm = s.fsm ∨ t.fsm = .failed := by
  refine h.keeps_own (P := fun u => u.fsm = s.fsm ∨ u.fsm = .failed) own ?start ?cont ?finish ?nop ?reject ?fatal
  case cont => exact fun _ _ _ _ ran => .inl ran.fsm_eq
  case finish => exact fun _ _ _ _ _ ran => .inl (by simp [ran.finish_fsm])
  case fatal => exact fun _ _ _ _ => .inr rfl
  all_goals
    intros
    exact .inl rfl

theorem State.sameResults_of_eq (x : t.x = s.x) (oscFreq : t.oscFreq = s.oscFreq) (plls : t.plls = s.plls)
    (doms : t.doms = s.doms) : s.sameResults t :=
  ⟨x, fun _ => oscFreq, fun p => by rw [State.pll_congr plls]; exact ⟨rfl, rfl⟩,
    fun d => by rw [State.dom_congr doms]; exact ⟨rfl, rfl⟩⟩

/-- A step of a command of its own that leaves DONE 0 writes no result or description register
(70_reset_and_hazards.md R249). -/
theorem Executed.own_sameResults (own : isBringup i = false) (h : Executed s i t) : t.done = false → s.sameResults t := by
  refine h.keeps_own (P := fun u => u.done = false → s.sameResults u) own ?start ?cont ?finish ?nop ?reject ?fatal
  case cont => exact fun _ _ _ _ ran _ => ran.sameResults
  case finish | nop => intros; contradiction
  all_goals
    intros
    exact State.sameResults_of_eq rfl rfl rfl rfl

/-- A step of a command of its own changes the common registers, those its operation in flight writes, and its results. -/
theorem Executed.own_regRead {r : Reg} (own : isBringup i = false) (h : Executed s i t) (notCommon : r ∉ commonRegs)
    (outside : ∀ o, s.opOf i = some o → o.sameKind s.work = true → r ∉ s.work.writes ++ s.work.results.map .x) :
    t.regRead r = s.regRead r := by
  have notStatus : r ≠ .status := fun e => notCommon (by simp [e, commonRegs])
  have notPollcnt : r ≠ .pollcnt := fun e => notCommon (by simp [e, commonRegs])
  refine h.keeps_own (P := fun u => u.regRead r = s.regRead r) own ?start ?cont ?finish ?nop ?reject ?fatal
  case start => exact fun _ => (State.regRead_goto _ notStatus).trans (State.regRead_keep _)
  case cont =>
    intro o u op kind ran
    exact ran.regRead_eq notStatus notPollcnt fun mem => outside o op kind (List.mem_append_left _ mem)
  case finish =>
    intro o u results op kind ran
    have notResult : ∀ i ∈ results.map Prod.fst, r ≠ .x i := by
      rintro i mem rfl
      exact outside o op kind (List.mem_append_right _ (List.mem_map_of_mem (ran.finish_results ▸ mem)))
    calc (u.setResults results).complete.regRead r = (u.setResults results).regRead r :=
          State.regRead_complete notStatus notPollcnt
      _ = u.regRead r := State.regRead_setResults notResult
      _ = s.regRead r := ran.finish_regRead_eq fun mem => outside o op kind (List.mem_append_left _ mem)
  case nop => exact fun _ => State.regRead_complete notStatus notPollcnt
  case reject => exact fun _ _ _ => State.regRead_reject _ _ _ notCommon
  case fatal => exact fun _ _ _ _ => State.regRead_fatal _ _ _ _ notCommon

/-! ### The frame of NOP, RST_HOLD, RST_RELEASE and OSC_START -/

/-- The one step NOP takes is its completion (46_bringup_sequencer.md R185). -/
theorem Executed.nop_eq (h : Executed s .nop t) : t = s.complete := by
  cases h with
  | nop => rfl
  | locked due ready refused => cases refused
  | cont op | rejected own op | finished own op | timedOut own op => cases op

/-- The footprint of RST_HOLD, RST_RELEASE and OSC_START is that of the operation in flight, whatever its operands. -/
theorem footprint_eq_of_sameKind {o : Op} {w : Work} (h : i = .rstHold ∨ i = .rstRelease ∨ i = .oscStart)
    (op : s.opOf i = some o) (kind : o.sameKind w = true) :
    footprint i = commonRegs ++ (w.writes ++ w.results.map .x) := by
  rcases h with rfl | rfl | rfl <;> cases op <;> cases w <;> first | rfl | cases kind

theorem commonRegs_subset_footprint (h : i = .rstHold ∨ i = .rstRelease ∨ i = .oscStart) :
    commonRegs ⊆ footprint i := by
  rcases h with rfl | rfl | rfl <;> exact List.subset_append_left _ _

end

/-- Settles O31: the registers outside the footprint by the operation in flight, the rest by the rules of every command. -/
theorem resetOscNopFrame : Obligations.ResetOscNopFrame := by
  intro i s t command run
  have done : Executed s i t := exec_inv run
  have own : isBringup i = false := by rcases command with rfl | rfl | rfl | rfl <;> rfl
  refine ⟨State.sameBytesOutside_of_regRead fun r out => ?_, done.sameSurroundings, done.own_fsm own,
    done.stable_rstDone.1, done.stable_rstDone.2, done.own_sameResults own⟩
  rcases command with rfl | op
  · rw [done.nop_eq]
    exact State.regRead_complete (fun e => out (by simp [e, footprint])) fun e => out (by simp [e, footprint])
  · refine done.own_regRead own (fun mem => out (commonRegs_subset_footprint op mem)) fun o is kind mem => out ?_
    rw [footprint_eq_of_sameKind op is kind]
    exact List.mem_append_right _ mem

end Sys2Proof.Machine
end

section
/-! The oscillator (41_oscillator.md): the startup delay (O36), OSC_START micro-operation by micro-operation (O16), and
what no step of any agent undoes (O42). -/

namespace Sys2Proof.Machine

/-! ### The startup delay (41_oscillator.md R112) -/

/-- R112's one rounding up, as the library's division rounded up. -/
theorem startupDelay_eq_ceilDiv (f : Nat) : startupDelay f = f ⌈/⌉ 256000 := by
  rw [Nat.ceilDiv_eq_add_pred_div, startupDelay, Nat.add_sub_assoc (by decide)]

theorem startupDelay_le_iff {f d : Nat} : startupDelay f ≤ d ↔ f ≤ 256000 * d := by
  rw [startupDelay_eq_ceilDiv]
  exact ceilDiv_le_iff_le_mul (by decide)

theorem startupDelay_mono {f g : Nat} (le : f ≤ g) : startupDelay f ≤ startupDelay g :=
  startupDelay_le_iff.mpr (le.trans (startupDelay_le_iff.mp le_rfl))

/-- One count fewer is too few: it is the least delay. -/
theorem startupDelay_tight (f : Nat) : 256000 * startupDelay f < f + 256000 := by
  cases counts : startupDelay f with
  | zero => omega
  | succ d =>
    have tooFew : ¬ f ≤ 256000 * d := by rw [← startupDelay_le_iff]; omega
    omega

/-- Settles O36: both bounds from the least delay, the rule's values by evaluation. -/
theorem startupDelayIsCeil : Obligations.StartupDelayIsCeil :=
  ⟨fun f => ⟨startupDelay_le_iff.mp le_rfl, startupDelay_tight f⟩, fun _ _ => startupDelay_mono, by decide⟩

/-! ### OSC_START, micro-operation by micro-operation (41_oscillator.md R111) -/

/-- The step of OSC_START after its first micro-operation. -/
theorem exec_oscStart_later {s : State} {f : Word} {delay : BitVec 16} (work : s.work = .osc f delay)
    (later : s.step ≠ 0#8) : exec .oscStart s = s.commandStep 0x20#8 0#4 (oscStep f delay s.step.toNat s) := by
  rw [exec_later rfl rfl later (by rw [work]; rfl), work]
  rfl

/-- The Wait of STEP 4 reads STABLE. -/
theorem State.regRead_oscStatus_stable (s : State) : (s.regRead .oscStatus).getLsbD 31 = s.osc.stable :=
  s.osc.statusWord_stable

/-- Settles O16: the three validations, the three writes, the satisfied Wait, the end with the status and the delay. -/
theorem oscStartRuns : Obligations.OscStartRuns := by
  intro s f delay latched
  refine ⟨fun start fsm => ?validate, fun g d work => ⟨fun at_ => ?clear, fun at_ => ?enable, fun at_ => ?startup,
    fun at_ stable => ?wait, fun at_ => ?finish⟩⟩
  case validate =>
    rw [exec_start rfl rfl start (.inl fsm), startOp, startOsc, startupDelay]
    split
    · rfl
    · split
      · rfl
      · split <;> rfl
  all_goals rw [exec_oscStart_later work (by simp [at_]), at_]
  case wait =>
    change s.commandStep _ _ (s.wait .oscStable .oscStatus (fun v => v.getLsbD 31) 5#8) = _
    rw [State.wait, if_pos (s.regRead_oscStatus_stable.trans stable)]
    rfl
  all_goals rfl

/-! ### What no step undoes in the oscillator (41_oscillator.md R110, 10_state.md R25, R52) -/

/-- The oscillator `t` has lost neither ENABLE nor STABLE of `o`, and has not gained BADWRITE. -/
structure Osc.Keeps (o t : Osc) : Prop where
  enable : o.enable = true → t.enable = true
  stable : o.stable = true → t.stable = true
  badWrite : t.badWrite = true → o.badWrite = true

theorem Osc.Keeps.of_eq {o t : Osc} (same : t = o) : o.Keeps t := by
  subst same
  exact ⟨id, id, id⟩

theorem Osc.Keeps.trans {o p q : Osc} (h : o.Keeps p) (g : p.Keeps q) : o.Keeps q :=
  ⟨g.enable ∘ h.enable, g.stable ∘ h.stable, h.badWrite ∘ g.badWrite⟩

/-- The engine writes OSC_CTRL only with ENABLE = 1 at range 0, and OSC_STATUS only to clear BADWRITE (R111). -/
theorem Ran.osc_keeps {s u : State} {w : Work} {k : Nat} (ran : Ran s w k (.cont u)) : s.osc.Keeps u.osc := by
  by_cases osc : ∃ f delay, w = .osc f delay
  · obtain ⟨f, delay, rfl⟩ := osc
    cases ran
    case osc1 =>
      rw [State.regWrite_oscStatus]
      exact ⟨id, id, fun set => absurd set Bool.false_ne_true⟩
    case osc2 =>
      rw [State.regWrite_oscCtrl]
      exact ⟨fun _ => rfl, id, id⟩
    case osc3 =>
      rw [State.regWrite_oscStartup]
      exact ⟨id, id, id⟩
    all_goals exact .of_eq rfl
  · exact .of_eq (ran.osc_eq fun f delay e => osc ⟨f, delay, e⟩)

/-- The environment only sets STABLE (10_state.md R52). -/
theorem Drifted.osc_keeps {s t : State} (drift : Drifted s t) : s.osc.Keeps t.osc := by
  cases drift with
  | oscStable => exact ⟨id, fun _ => rfl, id⟩
  | _ => exact .of_eq rfl

theorem Controlled.osc_keeps {s t : State} (h : Controlled s t) : s.osc.Keeps t.osc := by
  cases h with
  | started => exact .of_eq rfl
  | ran _ run => exact run.osc_keeps
  | ended same | kept same => exact .of_eq same.osc
  | drifted drift => exact drift.osc_keeps

theorem step_osc_keeps {s t : State} (h : step s = .next t) : s.osc.Keeps t.osc :=
  step_keeps_control (P := fun u => s.osc.Keeps u.osc) (fun _ _ kept move => kept.trans move.osc_keeps) (.of_eq rfl) h

/-! ### DOM_VALID stays set (10_state.md R17) -/

theorem Controlled.valid_kept {s t : State} (h : Controlled s t) (d : Dom) (valid : (s.dom d).valid = true) :
    (t.dom d).valid = true := by
  cases h with
  | started => exact valid
  | ran _ run => rwa [run.valid_eq]
  | ended same | kept same => exact same.valid d valid
  | drifted drift => rwa [drift.valid_eq]

theorem step_valid_kept {s t : State} (h : step s = .next t) (d : Dom) :
    (s.dom d).valid = true → (t.dom d).valid = true :=
  fun valid =>
    step_keeps_control (P := fun u => (u.dom d).valid = true) (fun _ _ still move => move.valid_kept d still) valid h

/-! ### The trace only grows (20_memory.md R68) -/

theorem Drifted.trace_eq {s t : State} (drift : Drifted s t) : t.trace = s.trace := by cases drift <;> rfl

/-- No host access writes to the trace. -/
theorem Served.trace_eq {s t : State} (served : Served s t) : t.trace = s.trace := by cases served <;> rfl

theorem Executed.trace_grows {s t : State} {i : Instr} (h : Executed s i t) : ∃ es, t.trace = s.trace ++ es := by
  obtain ⟨_, _, _, _, grows⟩ := h.sameSurroundings
  exact grows

theorem Moved.trace_grows {s t : State} (h : Moved s t) : ∃ es, t.trace = s.trace ++ es := by
  have unchanged : ∀ u : State, u.trace = s.trace → ∃ es, u.trace = s.trace ++ es :=
    fun _ same => ⟨[], by rw [same, List.append_nil]⟩
  cases h with
  | idle | illegal => exact unchanged _ rfl
  | executed _ _ _ run => exact run.trace_grows
  | env e => exact unchanged _ (envStep_inv s e).trace_eq
  | host a =>
    obtain ⟨u, reply, served, answered⟩ := hostAccess_inv s a
    exact unchanged _ (answered ▸ served.trace_eq)

theorem step_trace_grows {s t : State} (h : step s = .next t) : ∃ es, t.trace = s.trace ++ es := by
  obtain ⟨_, moved⟩ := step_inv h
  exact moved.trace_grows

/-- Settles O42: one rule per register bank, each for every move of every agent. -/
theorem nothingUndone : Obligations.NothingUndone := by
  intro s t st
  have osc := step_osc_keeps st
  exact ⟨osc.enable, osc.stable, osc.badWrite, step_valid_kept st, step_params st, step_trace_grows st⟩

end Sys2Proof.Machine
end

section
/-! The PLL engine (42_pll_engine.md): the lock order (O50), the solver (O37), PLL_CFG micro-operation by micro-operation
(O17, O18), its frame (O32), and a whole PLL_CFG from issue to Complete (O57). -/

namespace Sys2Proof.Machine

/-! ### The lock order (42_pll_engine.md R125) -/

/-- One PLL in the lock order (42_pll_engine.md R125): its output is up only with LOCK, and LOCK only with its core and VCO
up, a feedback divider and, by `crystal`, a running crystal. -/
structure Pll.InOrder (crystal : Bool) (v : Pll) : Prop where
  output : v.postdivPd = false → v.lock = true
  locked : v.lock = true → v.corePd = false ∧ v.vcoPd = false ∧ v.fbdiv ≠ 0#9 ∧ crystal = true

/-- What PLL_CFG has reached of its PLL before micro-operation `k` (42_pll_engine.md R124). -/
structure Pll.AtStage (k : Nat) (v : Pll) : Prop where
  down : 2 ≤ k → k ≤ 8 → v.postdivPd = true
  locked : 7 ≤ k → v.lock = true
  up : 9 ≤ k → v.postdivPd = false

theorem State.lockStage_pll {s : State} {p : PllId} {refdiv : BitVec 6} {pd1 pd2 : BitVec 3} {fbdiv : BitVec 9}
    {vcoHz : Word} (hw : s.work = .pll p refdiv pd1 pd2 fbdiv vcoHz) :
    s.lockStage ↔ fbdiv ≠ 0#9 ∧ (s.pll p).AtStage s.step.toNat := by
  rw [State.lockStage, hw]
  exact and_congr_right' ⟨fun ⟨down, locked, up⟩ => ⟨down, locked, up⟩,
    fun ⟨down, locked, up⟩ => ⟨down, locked, up⟩⟩

/-- Of the other operations nothing is asked. -/
theorem State.lockStage_other {s : State}
    (pll : ∀ p refdiv pd1 pd2 fbdiv vcoHz, s.work ≠ .pll p refdiv pd1 pd2 fbdiv vcoHz) : s.lockStage := by
  unfold State.lockStage
  split
  case h_1 hw => exact absurd hw (pll _ _ _ _ _ _)
  case h_2 => trivial

theorem State.lockOrder_iff {s : State} :
    s.LockOrder ↔ (∀ p, (s.pll p).InOrder s.osc.ready) ∧ s.lockStage :=
  ⟨fun h => ⟨fun p => ⟨h.output p, h.locked p⟩, h.stage⟩,
    fun ⟨order, stage⟩ => ⟨fun p => (order p).output, fun p => (order p).locked, stage⟩⟩

theorem Pll.InOrder.mono {v : Pll} {a b : Bool} (h : v.InOrder a) (running : a = true → b = true) : v.InOrder b :=
  ⟨h.output, fun lock => (h.locked lock).imp_right fun ⟨vco, fbdiv, crystal⟩ => ⟨vco, fbdiv, running crystal⟩⟩

theorem Pll.InOrder.of_unlocked {v : Pll} {crystal : Bool} (down : v.postdivPd = true) (unlocked : v.lock = false) :
    v.InOrder crystal :=
  ⟨fun up => by simp [down] at up, fun lock => by simp [unlocked] at lock⟩

/-- Before its lock is found, PLL_CFG only needs its PLL's output down. -/
theorem Pll.AtStage.of_down {v : Pll} {k : Nat} (before : k ≤ 6) (down : v.postdivPd = true) : v.AtStage k :=
  ⟨fun _ _ => down, fun _ => by omega, fun _ => by omega⟩

theorem Pll.AtStage.of_locked {v : Pll} {k : Nat} (before : k ≤ 8) (down : v.postdivPd = true) (lock : v.lock = true) :
    v.AtStage k :=
  ⟨fun _ _ => down, fun _ => lock, fun _ => by omega⟩

/-- Each micro-operation of PLL_CFG keeps its PLL in order and takes it to its next stage: the output goes down before the
PLL is unlocked, and up again only after LOCK. -/
theorem Ran.pll_staged {s u : State} {p : PllId} {refdiv : BitVec 6} {pd1 pd2 : BitVec 3} {fbdiv : BitVec 9} {vcoHz : Word}
    {crystal : Bool} (r : Ran s (.pll p refdiv pd1 pd2 fbdiv vcoHz) s.step.toNat (.cont u)) (divides : fbdiv ≠ 0#9)
    (order : (s.pll p).InOrder crystal) (stage : (s.pll p).AtStage s.step.toNat) :
    (u.pll p).InOrder crystal ∧ (u.pll p).AtStage u.step.toNat := by
  generalize hk : s.step.toNat = k at r stage
  cases r
  case polled => exact ⟨order, hk ▸ stage⟩
  case waited holds at_ =>
    obtain ⟨rfl, _, rfl, rfl, rfl⟩ := waitAt_pll at_
    have lock : (s.pll p).lock = true := (s.pll p).csWord_lock.symm.trans holds
    rw [State.waited_step]
    exact ⟨order, .of_locked (by decide) (stage.down (by decide) (by decide)) lock⟩
  case pll1 =>
    rw [State.goto_step, State.pll_goto, State.pll_regWrite_pllPwr, if_pos rfl, Pll.writePwr_allDown]
    exact ⟨.of_unlocked rfl rfl, .of_down (by decide) rfl⟩
  case pll2 =>
    have down : (s.pll p).postdivPd = true := stage.down (by decide) (by decide)
    rw [State.goto_step, State.pll_goto, State.pll_regWrite_pllFbdiv, if_pos rfl, Pll.writeFbdiv_zero]
    exact ⟨.of_unlocked down rfl, .of_down (by decide) down⟩
  case pll3 =>
    rw [State.goto_step, State.pll_goto, State.pll_regWrite_pllCs, if_pos rfl]
    exact ⟨⟨order.output, order.locked⟩, .of_down (by decide) (stage.down (by decide) (by decide))⟩
  case pll4 =>
    have down : (s.pll p).postdivPd = true := stage.down (by decide) (by decide)
    have kept : ((s.pll p).lock && fbdiv != 0#9) = (s.pll p).lock := by simp [divides]
    rw [State.goto_step, State.pll_goto, State.pll_regWrite_pllFbdiv, if_pos rfl, Pll.writeFbdiv_word, kept]
    refine ⟨⟨order.output, fun lock => ?_⟩, .of_down (by decide) down⟩
    obtain ⟨core, vco, _, running⟩ := order.locked lock
    exact ⟨core, vco, divides, running⟩
  case pll5 =>
    rw [State.goto_step, State.pll_goto, State.pll_regWrite_pllPwr, if_pos rfl, Pll.writePwr_coreUp]
    exact ⟨⟨fun up => absurd up Bool.false_ne_true.symm, fun lock => ⟨rfl, rfl, (order.locked lock).2.2⟩⟩,
      .of_down (by decide) rfl⟩
  case pll7 =>
    rw [State.goto_step, State.pll_goto, State.pll_regWrite_pllPrim, if_pos rfl]
    exact ⟨⟨order.output, order.locked⟩,
      .of_locked (by decide) (stage.down (by decide) (by decide)) (stage.locked (by decide))⟩
  case pll8 =>
    have lock : (s.pll p).lock = true := stage.locked (by decide)
    rw [State.goto_step, State.pll_goto, State.pll_regWrite_pllPwr, if_pos rfl, Pll.writePwr_allUp]
    exact ⟨⟨fun _ => lock, fun lock => ⟨rfl, rfl, (order.locked lock).2.2⟩⟩,
      fun _ late => absurd late (by decide), fun _ => lock, fun _ => rfl⟩

/-- A micro-operation keeps the lock order: only PLL_CFG writes to a PLL, to its own. -/
theorem Ran.lockOrder {s u : State} (r : Ran s s.work s.step.toNat (.cont u)) (h : s.LockOrder) : u.LockOrder := by
  rw [State.lockOrder_iff] at h ⊢
  obtain ⟨order, stage⟩ := h
  by_cases hw : ∃ p refdiv pd1 pd2 fbdiv vcoHz, s.work = .pll p refdiv pd1 pd2 fbdiv vcoHz
  · obtain ⟨p, refdiv, pd1, pd2, fbdiv, vcoHz, hw⟩ := hw
    have work : u.work = s.work := by
      rcases r.work_cases with same | ⟨_, _, _, _, _, old, _⟩ | ⟨_, _, _, _, _, _, _, _, _, _, _, _, old, _⟩
      · exact same
      all_goals simp [hw] at old
    obtain ⟨divides, stage⟩ := (State.lockStage_pll hw).mp stage
    rw [hw] at r
    rw [r.osc_eq (by simp), State.lockStage_pll (work.trans hw)]
    obtain ⟨own, next⟩ := r.pll_staged divides (order p) stage
    refine ⟨fun q => ?_, divides, next⟩
    by_cases same : q = p
    · exact same ▸ own
    · exact r.pll_eq_of_ne same ▸ order q
  · have other : ∀ p refdiv pd1 pd2 fbdiv vcoHz, s.work ≠ .pll p refdiv pd1 pd2 fbdiv vcoHz :=
      fun p refdiv pd1 pd2 fbdiv vcoHz e => hw ⟨p, refdiv, pd1, pd2, fbdiv, vcoHz, e⟩
    refine ⟨fun q => ?_, State.lockStage_other fun p refdiv pd1 pd2 fbdiv vcoHz e => ?_⟩
    · rw [State.pll_congr (r.plls_eq other)]
      exact (order q).mono r.oscReady
    · rcases r.work_cases with same | ⟨_, _, _, _, _, _, new⟩ | ⟨_, _, _, _, _, _, _, _, _, _, _, _, _, new⟩
      · exact other p refdiv pd1 pd2 fbdiv vcoHz (same ▸ e)
      all_goals simp [new] at e

/-- A passed PLL_CFG starts at a stage that asks nothing of its PLL but a feedback divider. -/
theorem Accepted.lockStage {s : State} {o : Op} {w : Work} (h : Accepted s o w) : ((s.keep w).goto 1#8).lockStage := by
  cases h with
  | pll ok =>
    obtain ⟨low, _⟩ := (Accepted.pll ok).legal
    rw [State.lockStage_pll rfl, State.goto_step]
    refine ⟨fun zero => ?_, fun late => absurd late (by decide), fun late => absurd late (by decide),
      fun late => absurd late (by decide)⟩
    simp [zero] at low
  | _ => trivial

/-- The stage of the operation in flight stays while no PLL changes but to gain LOCK. -/
theorem State.lockStage.mono {s t : State} (h : s.lockStage) (postdivPd : ∀ p, (t.pll p).postdivPd = (s.pll p).postdivPd)
    (lock : ∀ p, (s.pll p).lock = true → (t.pll p).lock = true) (work : t.work = s.work) (step : t.step = s.step) :
    t.lockStage := by
  unfold State.lockStage at h ⊢
  rw [work, step]
  split at h
  case h_1 p _ _ _ _ _ _ =>
    obtain ⟨divides, down, locked, up⟩ := h
    rw [postdivPd]
    exact ⟨divides, down, fun late => lock p (locked late), up⟩
  case h_2 => trivial

theorem State.SameControl.pll_inOrder {s t : State} (same : s.SameControl t) (order : ∀ p, (s.pll p).InOrder s.osc.ready)
    (p : PllId) : (t.pll p).InOrder t.osc.ready := by
  rw [same.pll p, same.osc]
  exact ⟨(order p).output, (order p).locked⟩

/-- The environment locks only a PLL whose core and VCO run on the crystal (10_state.md R53). -/
theorem Drifted.lockOrder {s t : State} (r : Drifted s t) (h : s.LockOrder) : t.LockOrder := by
  rw [State.lockOrder_iff] at h ⊢
  obtain ⟨order, stage⟩ := h
  cases r with
  | oscStable can =>
    refine ⟨fun p => (order p).mono fun ready => ?_, stage⟩
    exact (Osc.ready_iff _).mpr ⟨((Osc.ready_iff _).mp ready).1, rfl⟩
  | pllLock q can =>
    simp only [State.canPllLock, Bool.and_eq_true, Bool.not_eq_true', decide_eq_true_eq] at can
    obtain ⟨⟨⟨⟨⟨core, vco⟩, low⟩, _⟩, clock⟩, _⟩ := can
    have ready : s.osc.ready = true := by
      obtain ⟨enable, stable, _⟩ := s.fXosc_pos.mp clock
      exact (Osc.ready_iff _).mpr ⟨enable, stable⟩
    have divides : (s.pll q).fbdiv ≠ 0#9 := fun zero => by simp [zero, Config.fbdivMin] at low
    refine ⟨State.setPll_forall (P := fun _ v => v.InOrder s.osc.ready) order
      ⟨fun _ => rfl, fun _ => ⟨core, vco, divides, ready⟩⟩, stage.mono ?_ ?_ rfl rfl⟩
    · exact State.setPll_forall (P := fun p v => v.postdivPd = (s.pll p).postdivPd) (fun _ => rfl) rfl
    · exact State.setPll_forall (P := fun p v => (s.pll p).lock = true → v.lock = true) (fun _ => id) fun _ => rfl
  | _ => exact ⟨order, stage⟩

theorem Controlled.lockOrder {s t : State} (h : Controlled s t) (lock : s.LockOrder) : t.LockOrder := by
  obtain ⟨order, stage⟩ := State.lockOrder_iff.mp lock
  cases h with
  | started busy start passed => exact State.lockOrder_iff.mpr ⟨order, passed.lockStage⟩
  | ran busy run => exact run.lockOrder lock
  | ended same idle =>
    exact State.lockOrder_iff.mpr ⟨same.pll_inOrder order, State.lockStage_other (by simp [idle])⟩
  | kept same work step =>
    exact State.lockOrder_iff.mpr ⟨same.pll_inOrder order,
      stage.mono (fun p => by rw [same.pll p]) (fun p e => by rw [same.pll p]; exact e) work step⟩
  | drifted drift => exact drift.lockOrder lock

/-- Settles O50: PLL_CFG takes its PLL through the stages of R124, and no other move writes POSTDIV_PD or clears LOCK. -/
theorem lockOrderKept : Obligations.LockOrderKept := fun _ _ lock h =>
  step_keeps_control (fun _ _ lock m => m.lockOrder lock) lock h

/-! ### The solver (42_pll_engine.md R121, R123, R126) -/

/-- What a passed validation says of the solved values: the reference is not stopped, and the VCO is in its band
(42_pll_engine.md R123 (b), (d)). -/
theorem State.pllRejection_none_vco {s : State} {p : PllId} {refdiv : BitVec 6} {pd1 pd2 : BitVec 3} {target : Word}
    (h : s.pllRejection p refdiv pd1 pd2 target = none) :
    0 < refHz s.oscFreq refdiv ∧ s.params.vcoMinHz ≤ solveVcoHz s.oscFreq refdiv target ∧
      solveVcoHz s.oscFreq refdiv target ≤ s.params.vcoMaxHz := by
  unfold State.pllRejection at h
  split at h <;> [cases h; skip]
  split at h <;> [cases h; skip]
  split at h <;> [cases h; skip]
  split at h <;> [cases h; skip]
  split at h <;> [cases h; skip]
  split at h <;> [cases h; skip]
  case isFalse running _ band =>
    obtain ⟨low, high⟩ := not_or.mp band
    exact ⟨Nat.pos_of_ne_zero running, Nat.le_of_not_lt low, Nat.le_of_not_lt high⟩

/-- The VCO frequency is the greatest multiple of the reference that does not exceed the target (42_pll_engine.md R126). -/
theorem solveVcoHz_le (oscFreq : Word) (refdiv : BitVec 6) (target : Word) :
    solveVcoHz oscFreq refdiv target ≤ target.toNat := Nat.mul_div_le _ _

theorem lt_solveVcoHz_add {oscFreq : Word} {refdiv : BitVec 6} (target : Word) (running : 0 < refHz oscFreq refdiv) :
    target.toNat < solveVcoHz oscFreq refdiv target + refHz oscFreq refdiv :=
  Nat.lt_mul_div_succ _ running

/-- Settles O37: the ranges by the validation's checks, the width of vco_hz by its target's, the values by evaluation. -/
theorem solverIsSound : Obligations.SolverIsSound := by
  refine ⟨fun s p refdiv pd1 pd2 target passed => ?_, by decide, by decide, by decide⟩
  obtain ⟨low, high, _⟩ := State.pllRejection_none passed
  obtain ⟨running, min, max⟩ := State.pllRejection_none_vco passed
  have le := solveVcoHz_le s.oscFreq refdiv target
  refine ⟨low, high, min, max, le, lt_solveVcoHz_add target running, ?_, ?_⟩
  · exact (BitVec.toNat_ofNat ..).trans (Nat.mod_eq_of_lt (by omega))
  · exact (BitVec.toNat_ofNat ..).trans (Nat.mod_eq_of_lt (Nat.lt_of_le_of_lt le target.isLt))

/-! ### PLL_CFG, micro-operation by micro-operation (42_pll_engine.md R123, R124) -/

theorem State.badPostdiv_iff (s : State) (pd : BitVec 3) :
    s.badPostdiv pd = true ↔ pd.toNat < s.params.postdivMin ∨ s.params.postdivMax < pd.toNat := by
  rw [State.badPostdiv, Bool.or_eq_true, decide_eq_true_eq, decide_eq_true_eq]

/-- The first micro-operation of PLL_CFG past its gate: the first check of R123 that fails, or the values it keeps. -/
theorem exec_pllCfg_start {s : State} {p : PllId} {refdiv : BitVec 6} {pd1 pd2 : BitVec 3} (start : s.step = 0#8)
    (fsm : s.fsm = .powerOnReset) :
    exec (.pllCfg p refdiv pd1 pd2) s =
      .next ((s.pllRejection p refdiv pd1 pd2 (s.xr 0)).elim
        { s with
          work := .pll p refdiv pd1 pd2 (BitVec.ofNat 9 (solveFbdiv s.oscFreq refdiv (s.xr 0)))
            (BitVec.ofNat 32 (solveVcoHz s.oscFreq refdiv (s.xr 0))), step := 1#8 }
        fun r => s.reject r 0x30#8 (0#3 ++ p.bit)) := by
  rw [exec_start rfl rfl start (.inl fsm), startOp, startPll]
  cases s.pllRejection p refdiv pd1 pd2 (s.xr 0) <;> rfl

/-- R45's `pll_in_use`: some domain has the PLL for its source and uses it. -/
theorem State.pllInUse_iff {s : State} {p : PllId} :
    s.pllInUse p = true ↔ ∃ d, (s.dom d).auxsrc = pllAuxCode p ∧ (s.dom d).usesAux d = true := by
  rw [← not_iff_not, Bool.not_eq_true, State.pllInUse_eq_false]
  simp only [not_exists, not_and]
  exact forall_congr' fun d => imp_not_comm

theorem Domain.usesAux_iff (v : Domain) (d : Dom) :
    v.usesAux d = true ↔ if d.twoStage then v.main = .auxiliary ∨ v.selected = .auxiliary else v.enable = true := by
  cases two : d.twoStage <;> simp [Domain.usesAux, two]

/-- The first of a list of checks that fails ends it. -/
theorem elim_ite_some {α β : Type} (c : Prop) [Decidable c] (a : α) (rest : Option α) (none : β) (f : α → β) :
    (if c then some a else rest).elim none f = if c then f a else rest.elim none f := by
  split <;> rfl

/-- Settles O17: the rejection distributed over its checks, and a domain's use by its kind. -/
theorem pllCfgValidates : Obligations.PllCfgValidates := by
  intro s p refdiv pd1 pd2 ref fbdiv vco rej
  refine ⟨fun start fsm => ?validate, ?inUse⟩
  case validate =>
    rw [exec_pllCfg_start start fsm, State.pllRejection]
    simp only [State.badPostdiv_iff, elim_ite_some]
    rfl
  case inUse =>
    simp only [State.pllInUse_iff, Domain.usesAux_iff]
    cases p <;> rfl

/-- The step of PLL_CFG after its first micro-operation. -/
theorem exec_pllCfg_later {s : State} {p : PllId} {refdiv : BitVec 6} {pd1 pd2 : BitVec 3} {fbdiv : BitVec 9}
    {vcoHz : Word} (work : s.work = .pll p refdiv pd1 pd2 fbdiv vcoHz) (later : s.step ≠ 0#8) :
    exec (.pllCfg p refdiv pd1 pd2) s =
      s.commandStep 0x30#8 (0#3 ++ p.bit) (pllStep p refdiv pd1 pd2 fbdiv vcoHz s.step.toNat s) := by
  rw [exec_later rfl rfl later (by rw [work]; rfl), work]
  rfl

/-- The Wait of STEP 6 reads LOCK. -/
theorem State.regRead_pllCs_lock (s : State) (p : PllId) : (s.regRead (.pllCs p)).getLsbD 31 = (s.pll p).lock :=
  (s.pll p).csWord_lock

/-- PLL_PRIM as the sum of its two fields (10_state.md R30). -/
theorem pllPrim_eq_add (pd1 pd2 : BitVec 3) :
    (0#25 ++ pd2 ++ 0#1 ++ pd1 : Word) = (pd2.setWidth 32 <<< 4) + pd1.setWidth 32 := by
  decide +revert

/-- Settles O18: the writes of R124 in their order, the satisfied Wait, the end with the description registers. -/
theorem pllCfgRuns : Obligations.PllCfgRuns := by
  intro s p refdiv pd1 pd2 fbdiv vco work run out
  have later : s.step ≠ 0#8 → run = _ := exec_pllCfg_later work
  refine ⟨fun at_ => ?_, fun at_ => ?_, fun at_ => ?_, fun at_ => ?_, fun at_ => ?_, fun at_ lock => ?wait,
    fun at_ => ?prim, fun at_ => ?_, fun at_ => ?_⟩
  all_goals rw [later (by simp [at_]), at_]
  case wait =>
    change s.commandStep _ _ (s.wait .pllLock (.pllCs p) (fun v => v.getLsbD 31) 7#8) = _
    rw [State.wait, if_pos ((s.regRead_pllCs_lock p).trans lock)]
    rfl
  case prim =>
    rw [← pllPrim_eq_add]
    rfl
  all_goals rfl

/-! ### The frame of PLL_CFG (42_pll_engine.md R124) -/

/-- No micro-operation sets LOCK (10_state.md R53): a RegWrite keeps or clears it. -/
theorem Ran.lock_le {s u : State} {w : Work} {k : Nat} (ran : Ran s w k (.cont u)) (q : PllId)
    (lock : (u.pll q).lock = true) : (s.pll q).lock = true := by
  by_cases hw : ∃ p refdiv pd1 pd2 fbdiv vcoHz, w = .pll p refdiv pd1 pd2 fbdiv vcoHz
  · obtain ⟨p, refdiv, pd1, pd2, fbdiv, vcoHz, rfl⟩ := hw
    by_cases same : q = p
    · subst same
      cases ran
      case pll1 | pll2 => simp at lock
      case pll4 =>
        simp only [State.pll_goto, State.pll_regWrite_pllFbdiv, if_true, Pll.writeFbdiv_word, Bool.and_eq_true] at lock
        exact lock.1
      all_goals simpa using lock
    · rwa [ran.pll_eq_of_ne same] at lock
  · rwa [State.pll_congr (ran.plls_eq fun p refdiv pd1 pd2 fbdiv vcoHz e => hw ⟨p, refdiv, pd1, pd2, fbdiv, vcoHz, e⟩)]
      at lock

/-- A step of a command of its own sets no LOCK. -/
theorem Executed.own_lock {s t : State} {i : Instr} (own : isBringup i = false) (h : Executed s i t) (q : PllId) :
    (t.pll q).lock = true → (s.pll q).lock = true := by
  refine h.keeps_own (P := fun u => (u.pll q).lock = true → (s.pll q).lock = true) own ?start ?cont ?finish ?nop ?reject
    ?fatal
  case cont => exact fun _ _ _ _ ran => ran.lock_le q
  case finish =>
    intro _ u results _ _ ran lock
    rw [State.pll_complete, State.pll_setResults, ran.finish_sameControl.pll q] at lock
    exact lock
  all_goals
    intros
    assumption

/-- PLL_CFG in flight writes the registers of its own PLL and its four results. -/
theorem footprint_eq_of_pll_inFlight {s : State} {o : Op} {p : PllId} {refdiv : BitVec 6} {pd1 pd2 : BitVec 3}
    (op : s.opOf (.pllCfg p refdiv pd1 pd2) = some o) (fl : o.inFlight s) (kind : o.sameKind s.work = true) :
    footprint (.pllCfg p refdiv pd1 pd2) = commonRegs ++ (s.work.writes ++ s.work.results.map .x) := by
  cases op
  rcases fl with ⟨_, idle⟩ | ⟨_, _, latched⟩
  · simp [idle, Op.sameKind] at kind
  · generalize s.work = w at kind latched
    cases w <;> first | cases kind; done | obtain ⟨rfl, _⟩ := latched; rfl

/-- Settles O32: the registers outside the footprint by the latched PLL, the rest by the rules of every command. -/
theorem pllCfgFrame : Obligations.PllCfgFrame := by
  intro s t p refdiv pd1 pd2 fl run
  have done : Executed s (.pllCfg p refdiv pd1 pd2) t := exec_inv run
  refine ⟨State.sameBytesOutside_of_regRead fun r out => ?_, done.sameSurroundings, done.own_fsm rfl, done.own_lock rfl p,
    done.own_sameResults rfl⟩
  refine done.own_regRead rfl (fun mem => out (List.mem_append_left _ mem)) fun o op kind mem => out ?_
  rw [footprint_eq_of_pll_inFlight op (fl o op) kind]
  exact List.mem_append_right _ mem

/-! ### A whole PLL_CFG (42_pll_engine.md R124) -/

@[simp] theorem Plls.set_set (ps : Plls) (p : PllId) (v w : Pll) : (ps.set p v).set p w = ps.set p w := by
  cases p <;> rfl

@[simp] theorem Plls.set_get (ps : Plls) (p : PllId) : ps.set p (ps.get p) = ps := by cases p <;> rfl

/-- A step first, then the rest of the run. -/
theorem run_succ {s u : State} {n : Nat} (h : step s = .next u) :
    Sys2Proof.core.run (n + 1) s = Sys2Proof.core.run n u := by
  simp only [Host.Core.run, show Sys2Proof.core.step s = .next u from h]

/-- With LOCK, PLL_CS reads bit 31 over REFDIV (10_state.md R27). -/
theorem Pll.csWord_locked {v : Pll} (lock : v.lock = true) : v.csWord = 0x80000000#32 ||| v.refdiv.setWidth 32 := by
  have key : ∀ r : BitVec 6, (BitVec.ofBool true ++ 0#25 ++ r : Word) = 0x80000000#32 ||| r.setWidth 32 := by decide
  rw [Pll.csWord, lock, key]

/-- The state `b` with PLL p at `v`, the trace longer by `es`, the position at micro-operation `k` and the moves `ms` to
come: what a run of PLL_CFG changes before its end. -/
def State.atPll (b : State) (p : PllId) (v : Pll) (es : List TraceEntry) (k : BitVec 8) (ms : List Move) : State :=
  { b with plls := b.plls.set p v, trace := b.trace ++ es, step := k, schedule := ms }

section
variable {b : State} {p : PllId} {v w : Pll} {es : List TraceEntry} {k k' : BitVec 8} {m : Move} {ms : List Move}

theorem State.pll_atPll : (b.atPll p v es k ms).pll p = v := (Plls.get_set _ _ _ _).trans (if_pos rfl)

theorem State.setPll_atPll : (b.atPll p v es k ms).setPll p w = b.atPll p w es k ms := by
  simp [State.atPll, State.setPll]

theorem State.traced_atPll (e : TraceEntry) :
    ((b.atPll p v es k ms).traced e).goto k' = b.atPll p v (es ++ [e]) k' ms := by
  simp [State.atPll, State.traced, State.goto]

theorem step_atPll : step (b.atPll p v es k (m :: ms)) = (b.atPll p v es k ms).move m := step_of_move rfl

/-- The environment locks a PLL with its core and VCO up, a legal feedback divider and a running crystal
(10_state.md R53). -/
theorem step_lock_atPll (crystal : b.fXosc.pos = true) (core : v.corePd = false) (vco : v.vcoPd = false)
    (low : 16 ≤ v.fbdiv.toNat) (high : v.fbdiv.toNat ≤ 320) (unlocked : v.lock = false) :
    step (b.atPll p v es k (.env (.pllLock p) :: ms)) = .next (b.atPll p { v with lock := true } es k ms) := by
  have can : (b.atPll p v es k ms).canPllLock p = true := by
    have clock : (b.atPll p v es k ms).fXosc = b.fXosc := rfl
    simp [State.canPllLock, State.pll_atPll, clock, crystal, core, vco, unlocked, low, high, Config.fbdivMin,
      Config.fbdivMax]
  rw [step_atPll, State.move, State.envStep, if_pos can, State.pll_atPll, State.setPll_atPll]

end

/-- PLL_CFG with these operands and solved values is in flight, and no Wait of it has polled in vain. -/
structure ConfiguresPll (b : State) (p : PllId) (refdiv : BitVec 6) (pd1 pd2 : BitVec 3) (fbdiv : BitVec 9)
    (vcoHz : Word) : Prop where
  busy : b.busy = true
  alive : b.fsm ≠ .failed
  cmd : b.cmd = encode (.pllCfg p refdiv pd1 pd2)
  work : b.work = .pll p refdiv pd1 pd2 fbdiv vcoHz
  poll : b.pollcnt = 0#32

section
variable {b : State} {p : PllId} {refdiv : BitVec 6} {pd1 pd2 : BitVec 3} {fbdiv : BitVec 9} {vcoHz : Word}
  (h : ConfiguresPll b p refdiv pd1 pd2 fbdiv vcoHz) {v w : Pll} {es : List TraceEntry} {k : BitVec 8} {ms : List Move}
include h

/-- An engine move runs the micro-operation at the position. -/
theorem ConfiguresPll.step_eq (later : k ≠ 0#8) :
    step (b.atPll p v es k (.engine :: ms)) =
      (b.atPll p v es k ms).commandStep 0x30#8 (0#3 ++ p.bit)
        (pllStep p refdiv pd1 pd2 fbdiv vcoHz k.toNat (b.atPll p v es k ms)) := by
  have decoded : decode (b.atPll p v es k ms).cmd = .ok (.pllCfg p refdiv pd1 pd2) :=
    (decodeEncodeAgree _ _).mpr h.cmd
  calc step (b.atPll p v es k (.engine :: ms)) = (b.atPll p v es k ms).engineStep := step_atPll
    _ = exec (.pllCfg p refdiv pd1 pd2) (b.atPll p v es k ms) := State.engineStep_decoded h.busy h.alive decoded
    _ = _ := exec_pllCfg_later h.work later

/-- A RegWrite to the PLL turns it into what the write stores, and moves on. -/
theorem ConfiguresPll.step_write {r : Reg} {word : Word} {k' : BitVec 8} (later : k ≠ 0#8)
    (micro : ∀ s, pllStep p refdiv pd1 pd2 fbdiv vcoHz k.toNat s = .cont ((s.regWrite r word).goto k'))
    (stores : ∀ s : State, s.pll p = v → s.regWrite r word = (s.setPll p w).traced (.write r word)) :
    step (b.atPll p v es k (.engine :: ms)) = .next (b.atPll p w (es ++ [.write r word]) k' ms) := by
  rw [h.step_eq later, micro, stores _ State.pll_atPll, State.setPll_atPll, State.traced_atPll]
  rfl

/-- The Wait of STEP 6, satisfied. -/
theorem ConfiguresPll.step_wait (lock : v.lock = true) :
    step (b.atPll p v es 6#8 (.engine :: ms)) =
      .next (b.atPll p v (es ++ [.wait .pllLock (.pllCs p) v.csWord]) 7#8 ms) := by
  have reads : (b.atPll p v es 6#8 ms).regRead (.pllCs p) = v.csWord := congrArg Pll.csWord State.pll_atPll
  rw [h.step_eq (by decide)]
  change State.commandStep _ _ _ (State.wait _ .pllLock (.pllCs p) (fun v => v.getLsbD 31) 7#8) = _
  rw [State.wait, reads, if_pos (show v.csWord.getLsbD 31 = true from v.csWord_lock.trans lock), State.waited, reads]
  simp [State.commandStep, State.atPll, State.traced, h.poll]

/-- STEP 9 latches the description registers, gives the four results and completes. -/
theorem ConfiguresPll.step_finish (lock : v.lock = true) :
    step (b.atPll p v es 9#8 (.engine :: ms)) =
      .next (((((b.atPll p { v with vcoHz := vcoHz, outHz := pllOutHz vcoHz pd1 pd2 } es 9#8 ms).setX 4
        (fbdiv.setWidth 32)).setX 5 vcoHz).setX 6 (pllOutHz vcoHz pd1 pd2)).setX 7
          (0x80000000#32 ||| v.refdiv.setWidth 32)).complete := by
  have reads : (b.atPll p v es 9#8 ms).regRead (.pllCs p) = 0x80000000#32 ||| v.refdiv.setWidth 32 :=
    (congrArg Pll.csWord State.pll_atPll).trans (Pll.csWord_locked lock)
  rw [h.step_eq (by decide)]
  change Host.Outcome.next (((((State.describePll _ p vcoHz _).setX 4 _).setX 5 _).setX 6 _).setX 7 _).complete = _
  rw [reads, State.describePll, State.pll_atPll, State.setPll_atPll]

/-- PLL_CFG from STEP 1 to Complete, with the environment's lock before the Wait. -/
theorem ConfiguresPll.run (crystal : b.fXosc.pos = true) (low : 16 ≤ fbdiv.toNat) (high : fbdiv.toNat ≤ 320) (v : Pll) :
    Sys2Proof.core.run 10
        (b.atPll p v [] 1#8
          [.engine, .engine, .engine, .engine, .engine, .env (.pllLock p), .engine, .engine, .engine, .engine]) =
      .next (((((b.atPll p
        { refdiv := refdiv, lock := true, corePd := false, vcoPd := false, postdivPd := false, fbdiv := fbdiv,
          postdiv1 := pd1, postdiv2 := pd2, vcoHz := vcoHz, outHz := pllOutHz vcoHz pd1 pd2 }
        [.write (.pllPwr p) 7#32, .write (.pllFbdiv p) 0#32, .write (.pllCs p) (refdiv.setWidth 32),
          .write (.pllFbdiv p) (fbdiv.setWidth 32), .write (.pllPwr p) 4#32,
          .wait .pllLock (.pllCs p) (0x80000000#32 ||| refdiv.setWidth 32),
          .write (.pllPrim p) (0#25 ++ pd2 ++ 0#1 ++ pd1), .write (.pllPwr p) 0#32] 9#8 []).setX 4
        (fbdiv.setWidth 32)).setX 5 vcoHz).setX 6 (pllOutHz vcoHz pd1 pd2)).setX 7
          (0x80000000#32 ||| refdiv.setWidth 32)).complete := by
  refine (run_succ (h.step_write (by decide) (fun _ => rfl) fun s at_ => by
    rw [State.regWrite_pllPwr, at_, Pll.writePwr_allDown])).trans ?_
  refine (run_succ (h.step_write (by decide) (fun _ => rfl) fun s at_ => by
    rw [State.regWrite_pllFbdiv, at_, Pll.writeFbdiv_zero])).trans ?_
  refine (run_succ (h.step_write (by decide) (fun _ => rfl) fun s at_ => by
    rw [State.regWrite_pllCs, at_])).trans ?_
  refine (run_succ (h.step_write (by decide) (fun _ => rfl) fun s at_ => by
    rw [State.regWrite_pllFbdiv, at_, Pll.writeFbdiv_word, Bool.false_and])).trans ?_
  refine (run_succ (h.step_write (by decide) (fun _ => rfl) fun s at_ => by
    rw [State.regWrite_pllPwr, at_, Pll.writePwr_coreUp])).trans ?_
  refine (run_succ (step_lock_atPll crystal rfl rfl low high rfl)).trans ?_
  refine (run_succ (h.step_wait rfl)).trans ?_
  refine (run_succ (h.step_write (by decide) (fun _ => rfl) fun s at_ => by
    rw [State.regWrite_pllPrim, at_])).trans ?_
  refine (run_succ (h.step_write (by decide) (fun _ => rfl) fun s at_ => by
    rw [State.regWrite_pllPwr, at_, Pll.writePwr_allUp])).trans ?_
  refine (run_succ (h.step_finish rfl)).trans ?_
  rw [Pll.csWord_locked rfl]
  rfl

end

/-- The first engine step after an issue runs the issued command's first micro-operation. -/
theorem step_issued {s : State} {i : Instr} (alive : s.fsm ≠ .failed) (ms : List Move) :
    step { s.issue (encode i) with schedule := .engine :: ms } = exec i { s.issue (encode i) with schedule := ms } :=
  (step_of_move (s := { s.issue (encode i) with schedule := .engine :: ms }) rfl).trans
    (State.engineStep_decoded (s := { s.issue (encode i) with schedule := ms }) rfl alive ((decodeEncodeAgree _ _).mpr rfl))

/-- A PLL_CFG issued in `s`, with the values its validation keeps. -/
def State.configuring (s : State) (p : PllId) (refdiv : BitVec 6) (pd1 pd2 : BitVec 3) : State :=
  { s.issue (encode (.pllCfg p refdiv pd1 pd2)) with
    work := .pll p refdiv pd1 pd2 (BitVec.ofNat 9 (solveFbdiv s.oscFreq refdiv (s.xr 0)))
      (BitVec.ofNat 32 (solveVcoHz s.oscFreq refdiv (s.xr 0))) }

section
variable {s : State} {p : PllId} {refdiv : BitVec 6} {pd1 pd2 : BitVec 3}

theorem State.configuring_configures (alive : s.fsm ≠ .failed) :
    ConfiguresPll (s.configuring p refdiv pd1 pd2) p refdiv pd1 pd2
      (BitVec.ofNat 9 (solveFbdiv s.oscFreq refdiv (s.xr 0))) (BitVec.ofNat 32 (solveVcoHz s.oscFreq refdiv (s.xr 0))) :=
  ⟨rfl, alive, rfl, rfl, rfl⟩

/-- STEP 0 of an issued PLL_CFG that passes its validation. -/
theorem step_pllCfg_issued (fsm : s.fsm = .powerOnReset) (passed : s.pllRejection p refdiv pd1 pd2 (s.xr 0) = none)
    (ms : List Move) :
    step { s.issue (encode (.pllCfg p refdiv pd1 pd2)) with schedule := .engine :: ms } =
      .next ((s.configuring p refdiv pd1 pd2).atPll p (s.pll p) [] 1#8 ms) := by
  have accepts : { s.issue (encode (.pllCfg p refdiv pd1 pd2)) with schedule := ms }.pllRejection p refdiv pd1 pd2
      (s.xr 0) = none := passed
  rw [step_issued (by simp [fsm]),
    exec_pllCfg_start (s := { s.issue (encode (.pllCfg p refdiv pd1 pd2)) with schedule := ms }) rfl fsm]
  change Host.Outcome.next (Option.elim (State.pllRejection _ p refdiv pd1 pd2 (s.xr 0)) _ _) = _
  rw [accepts]
  simp [State.atPll, State.configuring, State.pll, State.xr]

end

/-- Settles O57: STEP 0 by its validation, the rest by the run of `ConfiguresPll`. -/
theorem pllCfgCompletes : Obligations.PllCfgCompletes := by
  intro s p refdiv pd1 pd2 fsm enable stable xtal passed fbdiv vco out locked prim
  obtain ⟨low, high, _, _, _, _, fits, _⟩ := solverIsSound.1 s p refdiv pd1 pd2 (s.xr 0) passed
  have configures : ConfiguresPll (s.configuring p refdiv pd1 pd2) p refdiv pd1 pd2 fbdiv vco :=
    State.configuring_configures (by simp [fsm])
  have run := configures.run (s.fXosc_pos.mpr ⟨enable, stable, xtal⟩) (low.trans_eq fits.symm) (fits.trans_le high)
    (s.pll p)
  rw [pllPrim_eq_add] at run
  exact ⟨_, (run_succ (step_pllCfg_issued fsm passed _)).trans run, rfl, rfl, rfl, fsm, rfl, rfl, rfl⟩

end Sys2Proof.Machine
end

section
/-! The clock mux (43_clock_mux.md): MUX_SWITCH micro-operation by micro-operation (O19, O20), the frame of the two
commands that switch clocks (O33), and what reaches a domain's output while its stages switch (O41, O52). -/

namespace Sys2Proof.Machine

/-! ### The fields of CLK_CTRL and CLK_SELECTED in a two-stage domain (10_state.md R32, R34) -/

section
variable {s : State} {d : Dom} (two : d.twoStage = true)
include two

theorem Domain.mainOf_twoStage (v : Domain) : v.mainOf d = v.main := if_pos two

theorem Domain.enableOf_twoStage (v : Domain) : v.enableOf d = false := if_pos two

theorem Domain.selectedOf_twoStage (v : Domain) : v.selectedOf d = v.selected := if_pos two

theorem State.writeMain_twoStage (m : Path) :
    s.writeMain d m = s.regWrite (.clkCtrl d) (clkCtrlWord m (s.dom d).auxsrc false) := by
  rw [State.writeMain, Domain.enableOf_twoStage two]

theorem State.writeAuxsrc_twoStage (a : BitVec 3) :
    s.writeAuxsrc d a = s.regWrite (.clkCtrl d) (clkCtrlWord (s.dom d).main a false) := by
  rw [State.writeAuxsrc, Domain.mainOf_twoStage two, Domain.enableOf_twoStage two]

theorem State.regRead_clkSelected_twoStage : s.regRead (.clkSelected d) = selectedWord (s.dom d).selected :=
  congrArg selectedWord (Domain.selectedOf_twoStage two _)

/-- M1 writes where MAIN selects the auxiliary path and the switch goes to an auxiliary source (43_clock_mux.md R142). -/
theorem State.mustStepBack_iff (main : Path) :
    s.mustStepBack d main = true ↔ main = .auxiliary ∧ (s.dom d).main = .auxiliary := by
  rw [State.mustStepBack, Domain.mainOf_twoStage two, Bool.and_eq_true, beq_iff_eq, beq_iff_eq]

end

/-! ### The validation of MUX_SWITCH (43_clock_mux.md R141) -/

theorem Dom.ofIndex_index (d : Dom) : Dom.ofIndex d.index = some d := by cases d <;> rfl

theorem Dom.index_of_ofIndex {n : Nat} {d : Dom} (h : Dom.ofIndex n = some d) : n = d.index := by
  unfold Dom.ofIndex at h
  split at h <;> cases h <;> rfl

theorem muxDomain_reserved {dom : BitVec 3} (h : 1 < dom.toNat) : muxDomain dom = none := by decide +revert

theorem muxDomain_index {dom : BitVec 3} {d : Dom} (two : d.twoStage = true) (h : dom.toNat = d.index) :
    muxDomain dom = some d := by
  rw [muxDomain, h, Dom.ofIndex_index, Option.filter_some, if_pos two]

theorem selectedWord_eq_auxiliary_iff {q : Path} : selectedWord q = 0b10#32 ↔ q = .auxiliary :=
  ⟨selectedWord_eq_auxiliary, fun e => e ▸ rfl⟩

/-- Check (b) of R141. -/
theorem twoStageOperandRejection_eq (main : Path) (a : BitVec 3) :
    twoStageOperandRejection main a =
      if main = .reference ∧ a ≠ 0#3 ∨ main = .auxiliary ∧ 2 < a.toNat then some ⟨.badOperand, a.setWidth 32⟩
      else none := by
  rw [twoStageOperandRejection, ← ite_not]
  cases main <;> simp [legalTwoStageSource]

/-- Checks (c) and (d) of R141, the first by the register CLK_SELECTED. -/
theorem State.twoStageReadyRejection_eq {s : State} {d : Dom} (two : d.twoStage = true) (main : Path) (a : BitVec 3) :
    s.twoStageReadyRejection d main a =
      if s.regRead (.clkSelected d) = 0b10#32 ∧ s.auxReady (s.dom d).auxsrc = false then
        some ⟨.muxSrcUnconfigured, s.regRead (.clkCtrl d)⟩
      else if main = .auxiliary ∧ s.auxReady a = false then some ⟨.muxSrcUnconfigured, a.setWidth 32⟩
      else none := by
  simp only [State.twoStageReadyRejection, State.regRead_clkSelected_twoStage two, selectedWord_eq_auxiliary_iff,
    Domain.selectedOf_twoStage two, Bool.not_eq_true]

/-- R35's `aux_ready`, source by source; the codes 4 to 7 are reserved. -/
theorem State.auxReady_iff {s : State} {a : BitVec 3} :
    s.auxReady a = true ↔
      (a = 0#3 ∧ s.osc.enable = true ∧ s.osc.stable = true) ∨
      (a = 1#3 ∧ (s.pll .sys).lock = true ∧ (s.pll .sys).postdivPd = false) ∨
      (a = 2#3 ∧ (s.pll .aux).lock = true ∧ (s.pll .aux).postdivPd = false) ∨ a = 3#3 := by
  rw [← Osc.ready_iff, ← Pll.ready_iff, ← Pll.ready_iff]
  have codes : a = 0#3 ∨ a = 1#3 ∨ a = 2#3 ∨ a = 3#3 ∨ 3 < a.toNat := by decide +revert
  rcases codes with rfl | rfl | rfl | rfl | reserved
  case inr.inr.inr.inr =>
    have none : s.auxReady a = false := by
      unfold State.auxReady
      split <;> first | omega | rfl
    rw [none]
    refine iff_of_false Bool.false_ne_true ?_
    rintro (⟨rfl, _⟩ | ⟨rfl, _⟩ | ⟨rfl, _⟩ | rfl) <;> exact absurd reserved (by decide)
  all_goals simp [State.auxReady]

/-- Settles O19: the reserved domains, the checks in their order, and the sources one by one. -/
theorem muxSwitchValidates : Obligations.MuxSwitchValidates := by
  intro s dom main auxsrc start fsm rej
  have first : exec (.muxSwitch dom main auxsrc) s = _ := exec_start rfl rfl start (.inl fsm)
  refine ⟨fun reserved => ?reserved, fun d two index => ?checks, fun a => State.auxReady_iff⟩
  case reserved =>
    rw [first, startOp, startMux, muxDomain_reserved reserved]
    rfl
  case checks =>
    rw [first, startOp, startMux, muxDomain_index two index]
    simp only [twoStageOperandRejection_eq, State.twoStageReadyRejection_eq two]
    split_ifs <;> rfl

/-! ### MUX_SWITCH, micro-operation by micro-operation (43_clock_mux.md R142, R143) -/

/-- The step of MUX_SWITCH after its first micro-operation. -/
theorem exec_muxSwitch_later {s : State} {dom : BitVec 3} {main : Path} {auxsrc : BitVec 3} {d : Dom} {m : Path}
    {a : BitVec 3} {stepped : Bool} (work : s.work = .mux d m a stepped) (later : s.step ≠ 0#8) :
    exec (.muxSwitch dom main auxsrc) s =
      s.commandStep 0x40#8 (0#1 ++ dom) (muxStep d m a stepped s.step.toNat s) := by
  rw [exec_later rfl rfl later (by rw [work]; rfl), work]
  rfl

/-- The Wait of M2 and M5, satisfied (60_exceptions.md R203). -/
theorem State.wait_muxSelected {s : State} {d : Dom} {q : Path} (two : d.twoStage = true)
    (selected : (s.dom d).selected = q) (k : BitVec 8) :
    s.wait .muxSelected (.clkSelected d) (fun v => v == selectedWord q) k =
      .cont { s with
        trace := s.trace ++ [.wait .muxSelected (.clkSelected d) (selectedWord q)], pollcnt := 0#32, step := k } := by
  have read : s.regRead (.clkSelected d) = selectedWord q := by rw [State.regRead_clkSelected_twoStage two, selected]
  rw [State.wait, if_pos (by rw [read, beq_self_eq_true]), State.waited, read]
  rfl

/-- Settles O20: M1 to M5 by their conditions, the end with the two registers of the domain. -/
theorem muxSwitchRuns : Obligations.MuxSwitchRuns := by
  intro s dom d main auxsrc stepped index two work run write
  have later : s.step ≠ 0#8 → run = _ := exec_muxSwitch_later work
  refine ⟨fun at_ => ?m1, fun at_ passed => ?pass, fun at_ back selected => ?m2, fun at_ => ?m3, fun at_ => ?m4,
    fun at_ selected => ?m5, fun at_ => ?results⟩
  all_goals rw [later (by simp [at_]), at_]
  case m1 =>
    change s.commandStep _ _ (muxM1 d main (.mux d main auxsrc true) 2#8 s) = _
    simp only [muxM1, State.mustStepBack_iff two, State.writeMain_twoStage two]
    split <;> rfl
  case pass => rw [passed]; rfl
  case m2 =>
    change s.commandStep _ _ (muxM2 d stepped 3#8 s) = _
    rw [muxM2, if_pos back, State.wait_muxSelected two selected]
    rfl
  case m3 =>
    change s.commandStep _ _ (muxM3 d main auxsrc 4#8 s) = _
    cases main with
    | reference => rfl
    | auxiliary => rw [muxM3, State.writeAuxsrc_twoStage two]; rfl
  case m4 =>
    change s.commandStep _ _ (muxM4 d main 5#8 s) = _
    rw [muxM4, State.writeMain_twoStage two]
    rfl
  case m5 =>
    change s.commandStep _ _ (muxM5 d main 6#8 s) = _
    rw [muxM5, State.wait_muxSelected two selected]
    rfl
  case results =>
    change Host.Outcome.next (State.complete (State.setResults s
      [(4, s.regRead (.clkSelected d)), (5, s.regRead (.clkCtrl d))])) = _
    rw [State.regRead_clkSelected_twoStage two]
    rfl

/-! ### The frame of MUX_SWITCH and DIV_APPLY (43_clock_mux.md R143, 44_clock_divider.md R152) -/

/-- The domain whose clock the operation in flight switches. -/
def Work.domain : Work → Option Dom
  | .mux d _ _ _ => some d
  | .div d _ _ _ _ _ _ _ _ => some d
  | _ => none

section
variable {s t u : State} {w : Work} {k : Nat} {d : Dom}

theorem Rewrites.domain_eq {v : Domain} (r : Rewrites s w k d v) : w.domain = some d := by
  cases r <;> rfl

/-- A micro-operation that goes on writes to the domain of its operation only. -/
theorem Ran.dom_eq_of_ne (r : Ran s w k (.cont u)) (other : w.domain ≠ some d) : u.dom d = s.dom d :=
  (r.dom_cases d).resolve_right fun rewritten => other rewritten.domain_eq

/-- The last micro-operation describes the domain of its operation only. -/
theorem Ran.finish_dom_eq_of_ne {results : List (Fin 8 × Word)} (r : Ran s w k (.finish u results))
    (other : w.domain ≠ some d) : u.dom d = s.dom d := by
  rcases r.finish_cases with ⟨rfl, _⟩ | ⟨_, _, _, _, rfl⟩ | ⟨_, _, _, _, _, _, _, _, rfl⟩ |
    ⟨e, _, _, _, _, _, _, _, _, rfl, _, rfl⟩ | ⟨_, _, _, _, rfl⟩
  case inr.inr.inr.inl =>
    rw [State.dom_describeDom, if_neg]
    rintro rfl
    exact other rfl
  all_goals rfl

/-- A step of a command of its own changes the domain of its operation only. -/
theorem Executed.own_dom_eq {i : Instr} (own : isBringup i = false) (h : Executed s i t)
    (other : ∀ o, s.opOf i = some o → o.sameKind s.work = true → s.work.domain ≠ some d) : t.dom d = s.dom d := by
  refine h.keeps_own (P := fun u => u.dom d = s.dom d) own ?start ?cont ?finish ?nop ?reject ?fatal
  case cont => exact fun o _ op kind ran => ran.dom_eq_of_ne (other o op kind)
  case finish =>
    intro o u results op kind ran
    rw [State.dom_complete, State.dom_setResults]
    exact ran.finish_dom_eq_of_ne (other o op kind)
  all_goals
    intros
    rfl

/-- An operation in flight with its kind of hidden state has its operands latched: its first micro-operation has none. -/
theorem Op.inFlight.latched {o : Op} (h : o.inFlight s) (kind : o.sameKind s.work = true) : o.latchedIn s.work := by
  rcases h with ⟨_, idle⟩ | ⟨_, _, latched⟩
  · rw [idle] at kind
    cases o <;> cases kind
  · exact latched

/-- A command that switches a clock, once in flight, does so in the domain its word names, and writes its registers and
two results. -/
theorem Op.latchedIn.domain_footprint {i : Instr} {o : Op} {dom : BitVec 3} {main : Path} {auxsrc : BitVec 3}
    (command : i = .muxSwitch dom main auxsrc ∨ i = .divApply dom main auxsrc) (op : s.opOf i = some o)
    (h : o.latchedIn w) :
    w.domain = Dom.ofIndex dom.toNat ∧ footprint i = commonRegs ++ (w.writes ++ w.results.map .x) := by
  rcases command with rfl | rfl <;> cases op <;> cases w
  case inl.refl.mux | inr.refl.div =>
    obtain ⟨isDom, _⟩ := h
    refine ⟨isDom.symm, ?_⟩
    rw [footprint, isDom]
    rfl
  all_goals exact h.elim

end

/-- Settles O33: the registers outside the footprint and the other domains by the latched domain, the rest by the rules of
every command. -/
theorem clockCommandsFrame : Obligations.ClockCommandsFrame := by
  intro s t dom main auxsrc i command fl run
  have done : Executed s i t := exec_inv run
  have own : isBringup i = false := by rcases command with rfl | rfl <;> rfl
  have latched : ∀ o, s.opOf i = some o → o.sameKind s.work = true → _ := fun o op kind =>
    ((fl o op).latched kind).domain_footprint command op
  refine ⟨State.sameBytesOutside_of_regRead fun r out => ?registers, done.sameSurroundings, done.own_fsm own,
    done.own_sameResults own, fun d other => ?domains⟩
  case registers =>
    have common : commonRegs ⊆ footprint i := by rcases command with rfl | rfl <;> exact List.subset_append_left _ _
    refine done.own_regRead own (fun mem => out (common mem)) fun o op kind mem => out ?_
    rw [(latched o op kind).2]
    exact List.mem_append_right _ mem
  case domains =>
    refine done.own_dom_eq own fun o op kind same => other ?_
    exact (Dom.index_of_ofIndex ((latched o op kind).1.symm.trans same)).symm

/-! ### The output of a two-stage domain (10_state.md R44, 43_clock_mux.md R144) -/

/-- A change of a two-stage domain changes neither of its inputs: its output is that of its new registers. -/
theorem State.fOut_setDom {s : State} {d : Dom} (two : d.twoStage = true) (v : Domain) :
    (s.setDom d v).fOut d = v.outOf (s.pathIn v (s.refIn d) v.selected) := by
  cases d
  case ref | sys => rfl
  all_goals cases two

/-- The outputs depend on the parameters, the oscillator, the PLLs and the domains only. -/
theorem State.fOut_congr {s t : State} (params : t.params = s.params) (osc : t.osc = s.osc) (plls : t.plls = s.plls)
    (doms : t.doms = s.doms) (d : Dom) : t.fOut d = s.fOut d := by
  cases s
  cases t
  cases params
  cases osc
  cases plls
  cases doms
  cases d <;> rfl

theorem State.fOut_traced (s : State) (e : TraceEntry) (d : Dom) : (s.traced e).fOut d = s.fOut d :=
  State.fOut_congr rfl rfl rfl rfl d

theorem State.fOut_goto (s : State) (k : BitVec 8) (d : Dom) : (s.goto k).fOut d = s.fOut d :=
  State.fOut_congr rfl rfl rfl rfl d

/-- The output does not depend on MAIN, which only requests. -/
theorem State.fOut_writeMain {s : State} {d : Dom} (two : d.twoStage = true) (m : Path) :
    (s.writeMain d m).fOut d = s.fOut d := by
  rw [State.writeMain_eq, State.fOut_traced, State.fOut_setDom two, State.fOut_twoStage s two]
  rfl

/-- The output does not depend on AUXSRC while the reference path drives the domain. -/
theorem State.fOut_writeAuxsrc {s : State} {d : Dom} (two : d.twoStage = true)
    (quiet : (s.dom d).selected = .reference) (a : BitVec 3) : (s.writeAuxsrc d a).fOut d = s.fOut d := by
  rw [State.writeAuxsrc_eq, State.fOut_traced, State.fOut_setDom two, State.fOut_twoStage s two, quiet]
  rfl

theorem State.fOut_muxFlip {s : State} {d : Dom} (two : d.twoStage = true) (can : s.canMuxFlip d = true) :
    (s.envStep (.muxFlip d)).fOut d = (s.dom d).outOf (s.pathIn (s.dom d) (s.refIn d) (s.dom d).main) := by
  rw [State.envStep, if_pos can, State.fOut_setDom two]
  rfl

/-- Settles O41: each write, and the flip, in the output's formula. -/
theorem glitchFreeSwitch : Obligations.GlitchFreeSwitch := fun s _ two =>
  ⟨State.fOut_writeMain two, fun a quiet => State.fOut_writeAuxsrc two quiet a, s.fOut_twoStage two,
    State.fOut_muxFlip two⟩

/-! ### Where AUXSRC changes (43_clock_mux.md R142, 44_clock_divider.md R153) -/

section
variable {s t : State} {d : Dom}

/-- Micro-operation `k` of the operation whose hidden state is `w` writes AUXSRC of domain `d`: M3 of a switch to an
auxiliary source, or G3. -/
inductive ChangesSource (d : Dom) : Work → Nat → Prop where
  | mux {auxsrc stepped} : ChangesSource d (.mux d .auxiliary auxsrc stepped) 3
  | div {main auxsrc src div old stepped settle left} (aux : d.twoStage = true → main = .auxiliary) :
      ChangesSource d (.div d main auxsrc src div old stepped settle left) 4

/-- Only M3 and G3 change AUXSRC, and they write nothing else. -/
theorem Ran.changesSource {w : Work} {k : Nat} (r : Ran s w k (.cont t)) (changed : (t.dom d).auxsrc ≠ (s.dom d).auxsrc) :
    ChangesSource d w k ∧ ∃ a next, t = (s.writeAuxsrc d a).goto next := by
  rcases r.dom_cases d with same | rewritten
  · exact absurd (congrArg Domain.auxsrc same) changed
  generalize t.dom d = v at rewritten changed
  cases rewritten with
  | muxSource =>
    cases r with
    | mux3Write => exact ⟨.mux, _, _, rfl⟩
    | waited at_ | polled at_ => cases at_
  | divSource two =>
    cases r with
    | div4Write => exact ⟨.div fun _ => rfl, _, _, rfl⟩
    | div4Gated gated => simp [two] at gated
    | waited at_ | polled at_ => cases at_
  | divSourceGated gated =>
    cases r with
    | div4Gated => exact ⟨.div fun two => by simp [gated] at two, _, _, rfl⟩
    | div4Write two | div4Pass two => simp [gated] at two
    | waited at_ | polled at_ => cases at_
  | _ => exact absurd rfl changed

/-- Of all moves only a micro-operation of the engine changes AUXSRC. -/
theorem Controlled.ran_of_auxsrc_ne (h : Controlled s t) (changed : (t.dom d).auxsrc ≠ (s.dom d).auxsrc) :
    s.busy = true ∧ Ran s s.work s.step.toNat (.cont t) := by
  cases h with
  | ran busy run => exact ⟨busy, run⟩
  | started => exact absurd rfl changed
  | ended same | kept same => exact absurd (by rw [same.dom d]) changed
  | drifted drift =>
    refine absurd ?_ changed
    cases drift with
    | muxFlip e =>
      exact State.setDom_forall (P := fun d v => v.auxsrc = (s.dom d).auxsrc)
        (v := { s.dom e with selected := (s.dom e).main }) (fun _ => rfl) rfl d
    | _ => rfl

/-- A command without an operation has nothing latched. -/
theorem State.atInstr.work_idle {i : Instr} (h : s.atInstr i) (none : s.opOf i = none) : s.work = .idle := by
  cases own : isBringup i with
  | true =>
    obtain ⟨v, rfl⟩ := isBringup_iff.mp own
    rcases h with ⟨_, _, idle, _⟩ | ⟨_, at_⟩
    · exact idle
    · rw [show s.planOp v s.sub.toNat = .none from none] at at_
      exact at_.2.2.2
  | false =>
    rcases (State.atInstr_command own).mp h with ⟨_, _, idle, _⟩ | ⟨_, _, at_⟩
    · exact idle
    · rw [none] at at_
      exact at_.2

/-- What a positioned state has latched is some operation's. -/
theorem State.Positioned.latched (h : s.Positioned) (busy : s.busy = true) (kept : s.work ≠ .idle) :
    ∃ o : Op, o.latchedIn s.work := by
  have at_ := h.busyAt busy
  split at at_
  case h_1 i good =>
    cases op : s.opOf i with
    | none => exact absurd (at_.work_idle op) kept
    | some o =>
      rcases at_.inFlight op with ⟨_, idle⟩ | ⟨_, _, latched⟩
      · exact absurd idle kept
      · exact ⟨o, latched⟩
  case h_2 =>
    obtain ⟨_, _, idle, _⟩ := at_
    exact absurd idle kept

/-- MUX_SWITCH is in flight in a two-stage domain only (43_clock_mux.md R141 (a)). -/
theorem State.Positioned.mux_twoStage {main : Path} {auxsrc : BitVec 3} {stepped : Bool} (h : s.Positioned)
    (busy : s.busy = true) (work : s.work = .mux d main auxsrc stepped) : d.twoStage = true := by
  obtain ⟨o, latched⟩ := h.latched busy (by simp [work])
  rw [work] at latched
  cases o
  case mux => exact latched.2.1
  all_goals exact latched.elim

/-- The sequence has stepped back where it is about to change AUXSRC, or has disabled its domain. -/
theorem State.SteppedBack.quiet (back : s.SteppedBack) (change : ChangesSource d s.work s.step.toNat) :
    (d.twoStage = true → (s.dom d).main = .reference) ∧
      (d.twoStage = false →
        (∃ main auxsrc stepped, s.work = .mux d main auxsrc stepped) ∨ (s.dom d).enable = false) := by
  unfold State.SteppedBack at back
  generalize s.work = w, s.step.toNat = k at back change
  cases change with
  | mux => exact ⟨fun _ => back rfl (by decide) (by decide), fun _ => .inl ⟨_, _, _, rfl⟩⟩
  | div aux =>
    have stepped := back (by decide) (by decide)
    refine ⟨fun two => ?_, fun gated => .inr ?_⟩
    · rw [if_pos two] at stepped
      exact stepped (aux two)
    · rwa [if_neg (by simp [gated])] at stepped

/-- AUXSRC changes between the Waits of the sequence: no switch is pending in its domain. -/
theorem ChangesSource.not_switching (change : ChangesSource d s.work s.step.toNat) (e : Dom) : ¬s.switching e := by
  unfold State.switching
  generalize s.work = w at change
  generalize hk : s.step.toNat = k at change
  have step := State.step_eq_ofNat hk
  cases change <;> simp [step]

theorem State.SwitchOwned.settled (owned : s.SwitchOwned) (alive : s.fsm ≠ .failed) (two : d.twoStage = true)
    (none : ¬s.switching d) : (s.dom d).selected = (s.dom d).main := by
  by_contra pending
  rcases owned d two (Ne.symm pending) with failed | ⟨_, switching⟩
  · exact alive failed
  · exact none switching

/-- A move that changes AUXSRC of a domain finds its main stage on the reference path, or its gate off. -/
theorem Moved.auxStageQuiet (h : Moved s t) (pos : s.Positioned) (owned : s.SwitchOwned) (back : s.SteppedBack)
    (changed : (t.dom d).auxsrc ≠ (s.dom d).auxsrc) :
    (d.twoStage = true → (s.dom d).selected = .reference ∧ (t.dom d).selected = .reference ∧ t.fOut d = s.fOut d) ∧
      (d.twoStage = false → (s.dom d).enable = false ∧ (t.dom d).enable = false) := by
  obtain ⟨busy, ran⟩ := h.controlled.ran_of_auxsrc_ne changed
  obtain ⟨change, a, next, rfl⟩ := ran.changesSource changed
  obtain ⟨stepped, off⟩ := back.quiet change
  have written : ((s.writeAuxsrc d a).goto next).dom d = { s.dom d with auxsrc := a } := by
    rw [State.dom_goto, State.dom_writeAuxsrc, if_pos rfl]
  rw [written]
  refine ⟨fun two => ?_, fun gated => ?_⟩
  · have quiet : (s.dom d).selected = .reference :=
      (owned.settled (pos.busyFsm busy) two (change.not_switching d)).trans (stepped two)
    refine ⟨quiet, quiet, ?_⟩
    rw [State.fOut_goto, State.fOut_writeAuxsrc two quiet]
  · rcases off gated with ⟨_, _, _, mux⟩ | disabled
    · simp [pos.mux_twoStage busy mux] at gated
    · exact ⟨disabled, disabled⟩

end

/-- Settles O52: the move that writes AUXSRC is M3 or G3, and its sequence has stepped back or disabled its domain. -/
theorem auxStageQuiet : Obligations.AuxStageQuiet := by
  intro s t pos owned back h d changed
  obtain ⟨ms, moved⟩ := step_inv h
  obtain ⟨stage, gate⟩ := moved.auxStageQuiet (pos.withSchedule ms) owned back changed
  refine ⟨fun two => ?_, gate⟩
  obtain ⟨before, after, output⟩ := stage two
  exact ⟨before, after, output.trans (State.fOut_congr rfl rfl rfl rfl d)⟩

end Sys2Proof.Machine
end

section
/-! The clock divider (44_clock_divider.md): the divisor and the achieved frequency (O38), DIV_APPLY micro-operation by
micro-operation (O21, O22, O23), and a whole DIV_APPLY of a gated domain (O58). -/

namespace Sys2Proof.Machine

/-! ### The divisor (44_clock_divider.md R151, R156) -/

theorem divisorOf_eq (src dst : Nat) : divisorOf src dst = src * 256 / dst := by
  rw [divisorOf, Nat.shiftLeft_eq]

theorem achievedHz_eq (src : Nat) (div : Word) : achievedHz src div = src * 256 / div.toNat := by
  rw [achievedHz, Nat.shiftLeft_eq]

/-- Checks (c) and (d) of R151 have passed where a divisor is accepted. -/
theorem divisorRejection_none_dst {src : Nat} {dst : Word} (h : divisorRejection src dst = none) :
    0 < dst.toNat ∧ dst.toNat ≤ src := by
  unfold divisorRejection at h
  split at h <;> [cases h; skip]
  split at h <;> [cases h; skip]
  case isFalse le nonzero => exact ⟨Nat.pos_of_ne_zero fun e => nonzero (BitVec.eq_of_toNat_eq e), Nat.le_of_not_lt le⟩

/-- Checks (c) to (e) of R151: DIV_ZERO has no branch, as a destination from 1 to the source gives a divisor of at least
256. -/
theorem divisorRejection_eq (src dst : Word) :
    divisorRejection src.toNat dst =
      if src < dst then some ⟨.destGtSrc, dst⟩
      else if dst = 0#32 then some ⟨.divByZero, src⟩
      else if 2 ^ 32 ≤ src.toNat * 256 / dst.toNat then
        some ⟨.divOverflow, BitVec.ofNat 32 (src.toNat * 256 / dst.toNat)⟩
      else none := by
  rw [divisorRejection, divisorOf_eq, BitVec.ofNat_toNat, BitVec.setWidth_eq]
  refine ite_congr rfl (fun _ => rfl) fun less => ite_congr rfl (fun _ => rfl) fun nonzero => if_neg ?_
  have pos : 0 < dst.toNat := Nat.pos_of_ne_zero fun e => nonzero (BitVec.eq_of_toNat_eq e)
  have le : dst.toNat ≤ src.toNat := BitVec.not_lt.mp less
  exact Nat.ne_of_gt (Nat.div_pos (by omega) pos)

/-- Rounding a quotient down and dividing by it again loses less than the divisor's last unit: the achieved frequency
lies between dst and src, and its excess over dst, times the divisor, is below dst (R156). -/
theorem achieved_bounds {src dst : Nat} (pos : 0 < dst) (le : dst ≤ src) :
    let d := src * 256 / dst
    dst ≤ src * 256 / d ∧ src * 256 / d ≤ src ∧ (src * 256 / d - dst) * d < dst := by
  intro d
  have least : 256 ≤ d := (Nat.le_div_iff_mul_le pos).mpr (by omega)
  have low : d * dst ≤ src * 256 := Nat.div_mul_le_self _ _
  have high : src * 256 < dst * d + dst := Nat.lt_mul_div_succ (src * 256) pos
  refine ⟨(Nat.le_div_iff_mul_le (by omega)).mpr (by rwa [Nat.mul_comm]), Nat.div_le_of_le_mul ?_, ?_⟩
  · rw [Nat.mul_comm]
    exact Nat.mul_le_mul_right _ least
  · have back : src * 256 / d * d ≤ src * 256 := Nat.div_mul_le_self _ _
    rw [Nat.sub_mul]
    omega

/-- Settles O38: the divisor's range by the checks it passed, the achieved frequency by the two roundings. -/
theorem divisorIsSound : Obligations.DivisorIsSound := by
  refine ⟨fun src dst passed => ?bounds, fun src pos => ?one, fun half pos => ?two, by decide, by decide, by decide⟩
  case bounds =>
    obtain ⟨pos, le⟩ := divisorRejection_none_dst passed
    obtain ⟨low, fits⟩ := divisorRejection_none passed
    have kept : (BitVec.ofNat 32 (divisorOf src dst.toNat)).toNat = divisorOf src dst.toNat :=
      (BitVec.toNat_ofNat ..).trans (Nat.mod_eq_of_lt fits)
    refine ⟨low, fits, ?_⟩
    rw [achievedHz_eq, kept, divisorOf_eq]
    exact achieved_bounds pos le
  case one => rw [divisorOf_eq, Nat.mul_div_cancel_left _ pos]
  case two => rw [divisorOf_eq, show 2 * half * 256 = half * 512 by omega, Nat.mul_div_cancel_left _ pos]

/-! ### The validation of DIV_APPLY (44_clock_divider.md R151) -/

theorem Dom.ofIndex_reserved {dom : BitVec 3} (h : 5 < dom.toNat) : Dom.ofIndex dom.toNat = none := by decide +revert

theorem legalGatedSource_eq_false {main : Path} {a : BitVec 3} :
    legalGatedSource main a = false ↔ main = .reference ∨ 3 < a.toNat := by
  cases main <;> simp [legalGatedSource]

/-- Check (b) of R151, for both kinds of domain. -/
theorem divOperandRejection_eq (d : Dom) (main : Path) (a : BitVec 3) :
    divOperandRejection d main a =
      if d.twoStage = true ∧ (main = .reference ∧ a ≠ 0#3 ∨ main = .auxiliary ∧ 2 < a.toNat) then
        some ⟨.badOperand, a.setWidth 32⟩
      else if d.twoStage = false ∧ (main = .reference ∨ 3 < a.toNat) then
        some ⟨.badOperand, (a.setWidth 32 <<< 8) + (main.bit.setWidth 32 <<< 4)⟩
      else none := by
  have snap : (0#21 ++ a ++ 0#3 ++ main.bit ++ 0#4 : Word) = (a.setWidth 32 <<< 8) + (main.bit.setWidth 32 <<< 4) := by
    cases main <;> decide +revert
  rw [divOperandRejection, twoStageOperandRejection_eq, snap]
  cases d.twoStage with
  | true => simp
  | false => cases legal : legalGatedSource main a <;> simp [← legalGatedSource_eq_false, legal]

/-- Check (f) of R151, for both kinds of domain: a gated domain has passed check (b) with MAIN = 1. -/
theorem State.divReadyRejection_eq {s : State} {d : Dom} {main : Path} (gatedMain : d.twoStage = false → main = .auxiliary)
    (a : BitVec 3) :
    s.divReadyRejection d main a =
      if d.twoStage = true ∧ (s.dom d).selected = .auxiliary ∧ s.auxReady (s.dom d).auxsrc = false then
        some ⟨.muxSrcUnconfigured, s.regRead (.clkCtrl d)⟩
      else if main = .auxiliary ∧ s.auxReady a = false then some ⟨.muxSrcUnconfigured, a.setWidth 32⟩
      else none := by
  unfold State.divReadyRejection
  cases two : d.twoStage with
  | true => simp [State.twoStageReadyRejection, Domain.selectedOf_twoStage two]
  | false => cases ready : s.auxReady a <;> simp [gatedMain two]

/-- The first micro-operation of DIV_APPLY past its gate: the first check of R151 (b) to (f) that fails, or the values it
keeps. -/
theorem exec_divApply_start {s : State} {dom : BitVec 3} {d : Dom} {main : Path} {auxsrc : BitVec 3}
    (start : s.step = 0#8) (fsm : s.fsm = .powerOnReset) (index : dom.toNat = d.index) :
    exec (.divApply dom main auxsrc) s =
      let rej (r : Rejection) : State := s.reject r 0x50#8 (0#1 ++ dom)
      .next ((divOperandRejection d main auxsrc).elim ((divisorRejection (s.xr 0).toNat (s.xr 1)).elim
        ((s.divReadyRejection d main auxsrc).elim
          { s with
            work := .div d main auxsrc (s.xr 0).toNat (BitVec.ofNat 32 (divisorOf (s.xr 0).toNat (s.xr 1).toNat))
              (s.dom d).div false 0 0, step := 1#8 } rej) rej) rej) := by
  rw [exec_start rfl rfl start (.inl fsm), startOp, startDiv, index, Dom.ofIndex_index]
  cases operands : divOperandRejection d main auxsrc with
  | some r => simp only [operands]; rfl
  | none =>
    cases divisor : divisorRejection (s.xr 0).toNat (s.xr 1) with
    | some r => simp only [operands]; rfl
    | none => cases ready : s.divReadyRejection d main auxsrc <;> simp only [operands, ready] <;> rfl

/-- Settles O21: the reserved domains, then the checks (b) to (f) in their order. -/
theorem divApplyValidates : Obligations.DivApplyValidates := by
  intro s dom main auxsrc start fsm src dst divisor rej
  refine ⟨fun reserved => ?reserved, fun d index => ?checks⟩
  case reserved =>
    rw [exec_start rfl rfl start (.inl fsm), startOp, startDiv, Dom.ofIndex_reserved reserved]
    rfl
  case checks =>
    rw [exec_divApply_start start fsm index, divOperandRejection_eq, divisorRejection_eq, divisorOf_eq]
    simp only [elim_ite_some, Option.elim_none]
    refine congrArg _ (ite_congr rfl (fun _ => rfl) fun _ => ite_congr rfl (fun _ => rfl) fun legal => ?_)
    have gatedMain : d.twoStage = false → main = .auxiliary := fun gated => by
      cases main with
      | reference => exact absurd ⟨gated, .inl rfl⟩ legal
      | auxiliary => rfl
    simp only [State.divReadyRejection_eq gatedMain, elim_ite_some]
    rfl

/-! ### DIV_APPLY, micro-operation by micro-operation (44_clock_divider.md R152 to R155) -/

/-- The step of DIV_APPLY after its first micro-operation. -/
theorem exec_divApply_later {s : State} {dom : BitVec 3} {main : Path} {auxsrc : BitVec 3} {d : Dom} {m : Path}
    {a : BitVec 3} {src : Nat} {div old : Word} {stepped : Bool} {n left : Nat}
    (work : s.work = .div d m a src div old stepped n left) (later : s.step ≠ 0#8) :
    exec (.divApply dom main auxsrc) s =
      s.commandStep 0x50#8 (0#1 ++ dom) (divStep d m a src div old stepped n left s.step.toNat s) := by
  rw [exec_later rfl rfl later (by rw [work]; rfl), work]
  rfl

section
variable {s : State} {d : Dom} {main : Path} {auxsrc : BitVec 3} {src : Nat} {div old : Word} {stepped : Bool}
  {n left : Nat}

/-! A two-stage domain runs the mux sequence M1 to M5 as STEP 2 to 6, a gated one G1 to G4 as STEP 2 to 5. -/

section
variable (two : d.twoStage = true)
include two

theorem divStep_two_twoStage :
    divStep d main auxsrc src div old stepped n left 2 s =
      muxM1 d main (.div d main auxsrc src div old true n left) 3#8 s := if_pos two

theorem divStep_three_twoStage :
    divStep d main auxsrc src div old stepped n left 3 s = muxM2 d stepped 4#8 s := if_pos two

theorem divStep_four_twoStage :
    divStep d main auxsrc src div old stepped n left 4 s = muxM3 d main auxsrc 5#8 s := if_pos two

theorem divStep_five_twoStage :
    divStep d main auxsrc src div old stepped n left 5 s = muxM4 d main 6#8 s := if_pos two

theorem divStep_six_twoStage :
    divStep d main auxsrc src div old stepped n left 6 s = muxM5 d main 7#8 s := if_pos two

end

section
variable (gated : d.twoStage = false)
include gated

theorem divStep_two_gated :
    divStep d main auxsrc src div old stepped n left 2 s =
      gatedG1 d (.div d main auxsrc src div old stepped (s.settleLength d) (s.settleLength d)) 3#8 s :=
  if_neg (by simp [gated])

theorem divStep_three_gated :
    divStep d main auxsrc src div old stepped n left 3 s =
      gatedG2 n left (.div d main auxsrc src div old stepped n (left - 1)) 4#8 s := if_neg (by simp [gated])

theorem divStep_four_gated :
    divStep d main auxsrc src div old stepped n left 4 s = gatedG3 d auxsrc 5#8 s := if_neg (by simp [gated])

theorem divStep_five_gated :
    divStep d main auxsrc src div old stepped n left 5 s = gatedG4 d 6#8 s := if_neg (by simp [gated])

theorem divStep_six_gated :
    divStep d main auxsrc src div old stepped n left 6 s = .cont (s.goto 7#8) := if_neg (by simp [gated])

theorem Domain.mainOf_gated (v : Domain) : v.mainOf d = .reference := if_neg (by simp [gated])

theorem Domain.enableOf_gated (v : Domain) : v.enableOf d = v.enable := if_neg (by simp [gated])

theorem State.writeEnable_gated (e : Bool) :
    s.writeEnable d e = s.regWrite (.clkCtrl d) (clkCtrlWord .reference (s.dom d).auxsrc e) := by
  rw [State.writeEnable, Domain.mainOf_gated gated]

theorem State.writeAuxsrc_gated (a : BitVec 3) :
    s.writeAuxsrc d a = s.regWrite (.clkCtrl d) (clkCtrlWord .reference a (s.dom d).enable) := by
  rw [State.writeAuxsrc, Domain.mainOf_gated gated, Domain.enableOf_gated gated]

theorem State.settleLength_gated :
    s.settleLength d =
      if (s.dom d).enable then settleCycles s.params (s.dom .sys).hz.toNat (s.dom d).hz.toNat else 0 := by
  rw [State.settleLength, Domain.enableOf_gated gated]

end

end

/-- Settles O22: the two divisor writes, the mux sequence by its conditions, the records and results of STEP 8. -/
theorem divApplyRuns : Obligations.DivApplyRuns := by
  intro s dom d main auxsrc src div old stepped n left index work run write achieved hz
  have later : s.step ≠ 0#8 → run = _ := exec_divApply_later work
  have same : achievedHz src div = achieved := achievedHz_eq src div
  refine ⟨fun at_ => ?grow, fun two => ⟨fun at_ => ?m1, fun at_ passed => ?pass, fun at_ back selected => ?m2,
    fun at_ => ?m3, fun at_ => ?m4, fun at_ selected => ?m5⟩, fun at_ => ?last, fun at_ => ?results⟩
  all_goals
    rw [later (by simp [at_]), at_]
    dsimp only [BitVec.reduceToNat]
  case grow =>
    change s.commandStep _ _ (if old < div then _ else _) = _
    split <;> rfl
  case m1 =>
    simp only [divStep_two_twoStage two, muxM1, State.mustStepBack_iff two, State.writeMain_twoStage two]
    split <;> rfl
  case pass =>
    rw [divStep_three_twoStage two, passed]
    rfl
  case m2 =>
    rw [divStep_three_twoStage two, muxM2, if_pos back, State.wait_muxSelected two selected]
    rfl
  case m3 =>
    rw [divStep_four_twoStage two]
    cases main with
    | reference => rfl
    | auxiliary => rw [muxM3, State.writeAuxsrc_twoStage two]; rfl
  case m4 =>
    rw [divStep_five_twoStage two, muxM4, State.writeMain_twoStage two]
    rfl
  case m5 =>
    rw [divStep_six_twoStage two, muxM5, State.wait_muxSelected two selected]
    rfl
  case last => rfl
  case results =>
    have record : domHzOf src div = hz := by rw [domHzOf, same]
    change Host.Outcome.next (State.complete (State.setResults (s.describeDom d (domHzOf src div))
      [(4, div), (5, BitVec.ofNat 32 (achievedHz src div))])) = _
    rw [record, same]
    rfl

/-- Settles O23: G1 to G4 with the settle length of the domain as it was, and the passed STEP 6. -/
theorem gatedSequenceRuns : Obligations.GatedSequenceRuns := by
  intro s dom d main auxsrc src div old stepped n left index gated work run write settle
  have later : s.step ≠ 0#8 → run = _ := exec_divApply_later work
  refine ⟨fun at_ => ?g1, fun at_ last => ?settled, fun at_ more => ?settling, fun at_ => ?g3, fun at_ => ?g4,
    fun at_ => ?pass⟩
  all_goals
    rw [later (by simp [at_]), at_]
    dsimp only [BitVec.reduceToNat]
  case g1 =>
    rw [divStep_two_gated gated, gatedG1, State.writeEnable_gated gated, State.settleLength_gated gated]
    rfl
  case settled =>
    rw [divStep_three_gated gated, gatedG2, if_pos last]
    rfl
  case settling =>
    rw [divStep_three_gated gated, gatedG2, if_neg (Nat.not_le_of_lt more), ← at_]
    rfl
  case g3 =>
    rw [divStep_four_gated gated, gatedG3, State.writeAuxsrc_gated gated]
    rfl
  case g4 =>
    rw [divStep_five_gated gated, gatedG4, State.writeEnable_gated gated]
    rfl
  case pass =>
    rw [divStep_six_gated gated]
    rfl

/-! ### A whole DIV_APPLY of a gated domain that is off (44_clock_divider.md R152 to R155) -/

@[simp] theorem Domains.set_set (ds : Domains) (d : Dom) (v w : Domain) : (ds.set d v).set d w = ds.set d w := by
  cases d <;> rfl

@[simp] theorem Domains.set_get (ds : Domains) (d : Dom) : ds.set d (ds.get d) = ds := by cases d <;> rfl

/-- The state `b` with domain d at `v`, the trace longer by `es` and the position at micro-operation `k`: what a run of
DIV_APPLY changes before its end. -/
def State.atDom (b : State) (d : Dom) (v : Domain) (es : List TraceEntry) (k : BitVec 8) : State :=
  { b with doms := b.doms.set d v, trace := b.trace ++ es, step := k }

section
variable {b : State} {d : Dom} {v w : Domain} {es : List TraceEntry} {k : BitVec 8}

theorem State.dom_atDom : (b.atDom d v es k).dom d = v := (Domains.get_set _ _ _ _).trans (if_pos rfl)

theorem State.setDom_atDom : (b.atDom d v es k).setDom d w = b.atDom d w es k := by
  simp [State.atDom, State.setDom]

theorem State.traced_atDom (e : TraceEntry) : (b.atDom d v es k).traced e = b.atDom d v (es ++ [e]) k := by
  simp [State.atDom, State.traced]

theorem State.regWrite_clkDiv_atDom (div : Word) :
    (b.atDom d v es k).regWrite (.clkDiv d) div = b.atDom d { v with div := div } (es ++ [.write (.clkDiv d) div]) k := by
  rw [State.regWrite_clkDiv, State.dom_atDom, State.setDom_atDom, State.traced_atDom]

theorem State.regWrite_clkCtrl_atDom (gated : d.twoStage = false) (a : BitVec 3) (e : Bool) :
    (b.atDom d v es k).regWrite (.clkCtrl d) (clkCtrlWord .reference a e) =
      b.atDom d { v with auxsrc := a, enable := e }
        (es ++ [.write (.clkCtrl d) (clkCtrlWord .reference a e)]) k := by
  rw [State.regWrite, State.regStore, State.dom_atDom, State.setDom_atDom, State.traced_atDom,
    Domain.writeCtrl_clkCtrlWord]
  simp [gated]

end

/-- DIV_APPLY of a gated domain, with these operands and this divisor, is in flight; its Settle has no idle step, and the
engine makes every move. -/
structure AppliesGated (b : State) (dom : BitVec 3) (d : Dom) (auxsrc : BitVec 3) (src : Nat) (div old : Word) : Prop where
  index : dom.toNat = d.index
  gated : d.twoStage = false
  busy : b.busy = true
  alive : b.fsm ≠ .failed
  cmd : b.cmd = encode (.divApply dom .auxiliary auxsrc)
  work : b.work = .div d .auxiliary auxsrc src div old false 0 0
  noMove : b.schedule = []

section
variable {b : State} {dom : BitVec 3} {d : Dom} {auxsrc : BitVec 3} {src : Nat} {div old : Word}
  (h : AppliesGated b dom d auxsrc src div old) {v : Domain} {es : List TraceEntry}
include h

/-- An engine move runs the micro-operation at the position. -/
theorem AppliesGated.step_eq {k : BitVec 8} :
    step (b.atDom d v es k) = exec (.divApply dom .auxiliary auxsrc) (b.atDom d v es k) :=
  (step_of_noMove (s := b.atDom d v es k) h.noMove).trans
    (State.engineStep_decoded (s := b.atDom d v es k) h.busy h.alive ((decodeEncodeAgree _ _).mpr h.cmd))

/-- STEP 1 writes the divisor exactly when it grows. -/
theorem AppliesGated.step_grow :
    step (b.atDom d v [] 1#8) =
      .next (b.atDom d { v with div := if old < div then div else v.div }
        (if old < div then [.write (.clkDiv d) div] else []) 2#8) := by
  obtain ⟨grow, _⟩ := divApplyRuns (b.atDom d v [] 1#8) dom d .auxiliary auxsrc src div old false 0 0 h.index h.work
  rw [h.step_eq, grow rfl]
  split
  · rw [State.regWrite_clkDiv_atDom]
    rfl
  · rfl

/-- STEP 2 disables the domain; as it was off, the Settle that follows has no idle step. -/
theorem AppliesGated.step_disable (off : v.enable = false) :
    step (b.atDom d v es 2#8) =
      .next (b.atDom d { v with enable := false }
        (es ++ [.write (.clkCtrl d) (clkCtrlWord .reference v.auxsrc false)]) 3#8) := by
  obtain ⟨disable, _⟩ := gatedSequenceRuns (b.atDom d v es 2#8) dom d _ _ _ _ _ _ _ _ h.index h.gated h.work
  rw [h.step_eq, disable rfl, State.dom_atDom, off, if_neg Bool.false_ne_true, ← h.work]
  beta_reduce
  rw [State.regWrite_clkCtrl_atDom h.gated]
  rfl

/-- STEP 3, the Settle of 0. -/
theorem AppliesGated.step_settle :
    step (b.atDom d v es 3#8) = .next (b.atDom d v (es ++ [.settle 0]) 4#8) := by
  obtain ⟨_, settled, _⟩ := gatedSequenceRuns (b.atDom d v es 3#8) dom d _ _ _ _ _ _ _ _ h.index h.gated h.work
  rw [h.step_eq, settled rfl (Nat.zero_le 1), ← State.traced_atDom]
  rfl

/-- STEP 4 changes the source. -/
theorem AppliesGated.step_source :
    step (b.atDom d v es 4#8) =
      .next (b.atDom d { v with auxsrc := auxsrc }
        (es ++ [.write (.clkCtrl d) (clkCtrlWord .reference auxsrc v.enable)]) 5#8) := by
  obtain ⟨_, _, _, source, _⟩ :=
    gatedSequenceRuns (b.atDom d v es 4#8) dom d _ _ _ _ _ _ _ _ h.index h.gated h.work
  rw [h.step_eq, source rfl, State.dom_atDom]
  beta_reduce
  rw [State.regWrite_clkCtrl_atDom h.gated]
  rfl

/-- STEP 5 enables the domain. -/
theorem AppliesGated.step_enable :
    step (b.atDom d v es 5#8) =
      .next (b.atDom d { v with enable := true }
        (es ++ [.write (.clkCtrl d) (clkCtrlWord .reference v.auxsrc true)]) 6#8) := by
  obtain ⟨_, _, _, _, enable, _⟩ :=
    gatedSequenceRuns (b.atDom d v es 5#8) dom d _ _ _ _ _ _ _ _ h.index h.gated h.work
  rw [h.step_eq, enable rfl, State.dom_atDom]
  beta_reduce
  rw [State.regWrite_clkCtrl_atDom h.gated]
  rfl

/-- STEP 6 is passed. -/
theorem AppliesGated.step_pass : step (b.atDom d v es 6#8) = .next (b.atDom d v es 7#8) := by
  obtain ⟨_, _, _, _, _, pass⟩ :=
    gatedSequenceRuns (b.atDom d v es 6#8) dom d _ _ _ _ _ _ _ _ h.index h.gated h.work
  rw [h.step_eq, pass rfl]
  rfl

/-- STEP 7 writes the divisor. -/
theorem AppliesGated.step_divide :
    step (b.atDom d v es 7#8) =
      .next (b.atDom d { v with div := div } (es ++ [.write (.clkDiv d) div]) 8#8) := by
  obtain ⟨_, _, divide, _⟩ := divApplyRuns (b.atDom d v es 7#8) dom d _ _ _ _ _ _ _ _ h.index h.work
  rw [h.step_eq, divide rfl, State.regWrite_clkDiv_atDom]
  rfl

/-- STEP 8 records the achieved frequency, where 32 bits hold it, gives the two results and completes. -/
theorem AppliesGated.step_finish (fits : achievedHz src div < 2 ^ 32) :
    step (b.atDom d v es 8#8) =
      .next (((b.atDom d { v with hz := BitVec.ofNat 32 (achievedHz src div), valid := true } es 8#8).setX 4 div).setX 5
        (BitVec.ofNat 32 (achievedHz src div))).complete := by
  obtain ⟨_, _, _, finish⟩ := divApplyRuns (b.atDom d v es 8#8) dom d _ _ _ _ _ _ _ _ h.index h.work
  rw [achievedHz_eq] at fits ⊢
  rw [h.step_eq, finish rfl, if_pos fits, State.dom_atDom, State.setDom_atDom]

/-- DIV_APPLY of a domain that is off, from STEP 1 to Complete. -/
theorem AppliesGated.run (off : v.enable = false) (fits : achievedHz src div < 2 ^ 32) :
    Sys2Proof.core.run 8 (b.atDom d v [] 1#8) =
      .next (((b.atDom d
        { v with
          auxsrc := auxsrc, enable := true, div := div, hz := BitVec.ofNat 32 (achievedHz src div), valid := true }
        ((if old < div then [.write (.clkDiv d) div] else []) ++
          [.write (.clkCtrl d) (clkCtrlWord .reference v.auxsrc false), .settle 0,
            .write (.clkCtrl d) (clkCtrlWord .reference auxsrc false),
            .write (.clkCtrl d) (clkCtrlWord .reference auxsrc true), .write (.clkDiv d) div]) 8#8).setX 4 div).setX 5
        (BitVec.ofNat 32 (achievedHz src div))).complete := by
  have stillOff : { v with div := if old < div then div else v.div }.enable = false := off
  refine (run_succ h.step_grow).trans ?_
  refine (run_succ (h.step_disable stillOff)).trans ?_
  refine (run_succ h.step_settle).trans ?_
  refine (run_succ h.step_source).trans ?_
  refine (run_succ h.step_enable).trans ?_
  refine (run_succ h.step_pass).trans ?_
  refine (run_succ h.step_divide).trans ?_
  refine (run_succ (h.step_finish fits)).trans ?_
  simp only [List.append_assoc]
  rfl

end

/-- The command `i` issued in `s`, with no other agent's move to come. -/
def State.issuedAlone (s : State) (i : Instr) : State := { s.issue (encode i) with schedule := [] }

/-- The first engine step after such an issue runs the issued command's first micro-operation. -/
theorem step_issuedAlone {s : State} {i : Instr} (alive : s.fsm ≠ .failed) :
    step (s.issuedAlone i) = exec i (s.issuedAlone i) :=
  (step_of_noMove (s := s.issuedAlone i) rfl).trans
    (State.engineStep_decoded (s := s.issuedAlone i) rfl alive ((decodeEncodeAgree _ _).mpr rfl))

/-- A DIV_APPLY with MAIN = 1 issued in `s`, with the values its validation keeps. -/
def State.applying (s : State) (dom : BitVec 3) (d : Dom) (auxsrc : BitVec 3) : State :=
  { s.issuedAlone (.divApply dom .auxiliary auxsrc) with
    work := .div d .auxiliary auxsrc (s.xr 0).toNat (BitVec.ofNat 32 (divisorOf (s.xr 0).toNat (s.xr 1).toNat))
      (s.dom d).div false 0 0 }

section
variable {s : State} {dom : BitVec 3} {d : Dom} {auxsrc : BitVec 3}

theorem State.applying_applies (index : dom.toNat = d.index) (gated : d.twoStage = false) (alive : s.fsm ≠ .failed) :
    AppliesGated (s.applying dom d auxsrc) dom d auxsrc (s.xr 0).toNat
      (BitVec.ofNat 32 (divisorOf (s.xr 0).toNat (s.xr 1).toNat)) (s.dom d).div :=
  ⟨index, gated, rfl, alive, rfl, rfl, rfl⟩

/-- STEP 0 of an issued DIV_APPLY of a gated domain that passes its validation. -/
theorem step_divApply_issued (index : dom.toNat = d.index) (gated : d.twoStage = false) (fsm : s.fsm = .powerOnReset)
    (legal : auxsrc.toNat ≤ 3) (ready : s.auxReady auxsrc = true)
    (divisor : divisorRejection (s.xr 0).toNat (s.xr 1) = none) :
    step (s.issuedAlone (.divApply dom .auxiliary auxsrc)) =
      .next ((s.applying dom d auxsrc).atDom d (s.dom d) [] 1#8) := by
  let u := s.issuedAlone (.divApply dom .auxiliary auxsrc)
  have operands : divOperandRejection d .auxiliary auxsrc = none := by
    simp [divOperandRejection, gated, legalGatedSource, legal]
  have accepts : divisorRejection (u.xr 0).toNat (u.xr 1) = none := divisor
  have source : u.divReadyRejection d .auxiliary auxsrc = none := by
    rw [State.divReadyRejection, if_neg (by simp [gated])]
    exact if_pos ready
  rw [step_issuedAlone (by simp [fsm]), exec_divApply_start (s := u) rfl fsm index, operands, accepts, source]
  simp [u, State.atDom, State.applying, State.issuedAlone, State.dom, State.xr]

end

/-- Settles O58: STEP 0 by its validation, the rest by the run of `AppliesGated`. -/
theorem divApplyCompletes : Obligations.DivApplyCompletes := by
  intro s dom d auxsrc index gated fsm off legal ready divisor div hz
  obtain ⟨low, high, _⟩ := divisorIsSound.1 (s.xr 0).toNat (s.xr 1) divisor
  have least : 256 ≤ div.toNat := low.trans_eq ((BitVec.toNat_ofNat ..).trans (Nat.mod_eq_of_lt high)).symm
  have applies := State.applying_applies (s := s) (auxsrc := auxsrc) index gated (by simp [fsm])
  have run := applies.run (v := s.dom d) off (achievedHz_lt (s.xr 0).isLt least)
  refine ⟨_, (run_succ (step_divApply_issued index gated fsm legal ready divisor)).trans run, rfl, rfl, rfl, fsm, rfl,
    rfl, ?trace⟩
  exact (List.append_assoc ..).symm

end Sys2Proof.Machine
end

section
/-! The frequency counter (45_frequency_counter.md): FC_MEASURE micro-operation by micro-operation (O24), its frame (O34),
the resolution of its result (O39), and a whole measurement (O59). -/

namespace Sys2Proof.Machine

/-! ### FC_MEASURE, micro-operation by micro-operation (45_frequency_counter.md R171, R172) -/

theorem windowOf_eq (refKhz : Word) (interval : BitVec 4) :
    windowOf refKhz interval = refKhz.toNat * 2 ^ interval.toNat / 1000 := by
  rw [windowOf, Nat.shiftLeft_eq]

/-- The first step of FC_MEASURE, in either state in which it is accepted (30_encoding.md R87). -/
theorem exec_fcMeasure_start {s : State} {src : BitVec 8} (start : s.step = 0#8)
    (fsm : s.fsm = .powerOnReset ∨ s.fsm = .ready) :
    exec (.fcMeasure src) s = s.commandStep 0x60#8 0#4 (startFc src (s.xr 0) s) :=
  exec_start (i := .fcMeasure src) (o := .fc src (s.xr 0)) rfl rfl start (fsm.imp id fun ready => ⟨ready, rfl⟩)

/-- The step of FC_MEASURE after its first micro-operation. -/
theorem exec_fcMeasure_later {s : State} {src src' : BitVec 8} {khz : Word} (work : s.work = .fc src' khz)
    (later : s.step ≠ 0#8) :
    exec (.fcMeasure src) s = s.commandStep 0x60#8 0#4 (fcStep src' khz s.step.toNat s) := by
  rw [exec_later rfl rfl later (by rw [work]; rfl), work]
  rfl

/-- The Wait of STEP 1 reads RUNNING, that of STEP 7 DONE. -/
theorem State.regRead_fcStatus_running (s : State) : (s.regRead .fcStatus).getLsbD 0 = s.fc.running :=
  s.fc.statusWord_running

theorem State.regRead_fcStatus_done (s : State) : (s.regRead .fcStatus).getLsbD 1 = s.fc.done := s.fc.statusWord_done

/-- Settles O24: the two validations, the satisfied Waits, the five writes, the end with the two results. -/
theorem fcMeasureRuns : Obligations.FcMeasureRuns := by
  intro s src run interval
  refine ⟨fun start fsm => ?validate, fun khz work => ⟨fun at_ idle => ?idle, fun at_ => ?refKhz, fun at_ => ?interval,
    fun at_ => ?minKhz, fun at_ => ?maxKhz, fun at_ => ?source, fun at_ done => ?done, fun at_ => ?results⟩⟩
  case validate =>
    change exec (.fcMeasure src) s = _
    rw [exec_fcMeasure_start start fsm, startFc, windowOf_eq]
    split
    · rfl
    · split <;> rfl
  all_goals
    change exec (.fcMeasure src) s = _
    rw [exec_fcMeasure_later work (by simp [at_]), at_]
  case idle =>
    change s.commandStep _ _ (s.wait .fcIdle .fcStatus (fun v => !v.getLsbD 0) 2#8) = _
    rw [State.wait, if_pos (by rw [s.regRead_fcStatus_running, idle]; rfl)]
    rfl
  case done =>
    change s.commandStep _ _ (s.wait .fcDone .fcStatus (fun v => v.getLsbD 1) 8#8) = _
    rw [State.wait, if_pos (s.regRead_fcStatus_done.trans done)]
    rfl
  all_goals rfl

/-! ### The frame of FC_MEASURE (45_frequency_counter.md R172) -/

section
variable {s t u : State} {src : BitVec 8}

/-- DONE, PASS and FAIL are set by the environment alone (10_state.md R55): a write of FC_SRC only clears them. -/
def Counter.raisesNoFlag (c c' : Counter) : Prop :=
  (c'.done = true → c.done = true) ∧ (c'.pass = true → c.pass = true) ∧ (c'.fail = true → c.fail = true)

theorem Counter.raisesNoFlag_refl (c : Counter) : c.raisesNoFlag c := ⟨id, id, id⟩

theorem Counter.raisesNoFlag_writeSrc (c : Counter) (v : BitVec 8) : c.raisesNoFlag (c.writeSrc v) := by
  unfold Counter.writeSrc
  split
  · exact c.raisesNoFlag_refl
  · exact ⟨nofun, nofun, nofun⟩

theorem Ran.raisesNoFlag {w : Work} {k : Nat} (ran : Ran s w k (.cont u)) : s.fc.raisesNoFlag u.fc := by
  by_cases hw : ∃ src refKhz, w = .fc src refKhz
  · obtain ⟨src, refKhz, rfl⟩ := hw
    cases ran
    case fc6 => exact s.fc.raisesNoFlag_writeSrc _
    all_goals exact s.fc.raisesNoFlag_refl
  · rw [ran.fc_eq fun src refKhz e => hw ⟨src, refKhz, e⟩]
    exact s.fc.raisesNoFlag_refl

theorem Ran.finish_raisesNoFlag {w : Work} {k : Nat} {results : List (Fin 8 × Word)}
    (ran : Ran s w k (.finish u results)) : s.fc.raisesNoFlag u.fc := by
  cases ran <;> exact s.fc.raisesNoFlag_refl

theorem Executed.raisesNoFlag {i : Instr} (h : Executed s i t) : s.fc.raisesNoFlag t.fc := by
  refine h.keeps (P := fun u => s.fc.raisesNoFlag u.fc) ?start ?cont ?finish ?next ?nop ?reject ?fatal ?ended
  case cont => exact fun _ _ _ _ _ ran => ran.raisesNoFlag
  case finish => exact fun _ _ _ _ _ _ ran => by simpa using ran.finish_raisesNoFlag
  case next => exact fun _ _ _ _ _ _ _ _ ran => by simpa using ran.finish_raisesNoFlag
  all_goals
    intros
    exact s.fc.raisesNoFlag_refl

/-- FC_MEASURE in flight has the hidden state of a measurement. -/
theorem work_of_fcMeasure {o : Op} {w : Work} (op : s.opOf (.fcMeasure src) = some o) (kind : o.sameKind w = true) :
    ∃ src' khz, w = .fc src' khz := by
  cases op
  cases w <;> first | exact ⟨_, _, rfl⟩ | cases kind

/-- No clock, PLL, oscillator or reset state differs (45_frequency_counter.md R172). -/
def State.sameClocks (s t : State) : Prop :=
  t.osc = s.osc ∧ t.plls = s.plls ∧ t.doms = s.doms ∧ t.rstCtrl = s.rstCtrl ∧ t.rstDone = s.rstDone

theorem Executed.fcMeasure_sameClocks (h : Executed s (.fcMeasure src) t) : s.sameClocks t := by
  refine h.keeps_own (P := s.sameClocks) rfl ?start ?cont ?finish ?nop ?reject ?fatal
  case cont =>
    intro o u op kind ran
    obtain ⟨src', khz, work⟩ := work_of_fcMeasure op kind
    rw [work] at ran
    exact ⟨ran.osc_eq nofun, ran.plls_eq nofun, ran.doms_eq nofun nofun, ran.rstCtrl_eq nofun nofun,
      ran.rstDone_eq nofun nofun⟩
  case finish =>
    intro o u results op kind ran
    obtain ⟨src', khz, work⟩ := work_of_fcMeasure op kind
    rw [work] at ran
    generalize s.step.toNat = k at ran
    cases ran
    exact ⟨rfl, rfl, rfl, rfl, rfl⟩
  all_goals
    intros
    exact ⟨rfl, rfl, rfl, rfl, rfl⟩

end

/-- Settles O34: the registers outside the footprint by the measurement in flight, the rest by the rules of every command. -/
theorem fcMeasureFrame : Obligations.FcMeasureFrame := by
  intro s t src run
  have done : Executed s (.fcMeasure src) t := exec_inv run
  obtain ⟨osc, plls, doms, rstCtrl, rstDone⟩ := done.fcMeasure_sameClocks
  obtain ⟨noDone, noPass, noFail⟩ := done.raisesNoFlag
  refine ⟨State.sameBytesOutside_of_regRead fun r out => ?_, done.sameSurroundings, done.own_fsm rfl, osc, plls, doms,
    rstCtrl, rstDone, noDone, noPass, noFail, done.own_sameResults rfl⟩
  refine done.own_regRead rfl (fun mem => out (List.mem_append_left _ mem)) fun o op kind mem => out ?_
  obtain ⟨src', khz, work⟩ := work_of_fcMeasure op kind
  rw [work] at mem
  exact List.mem_append_right commonRegs mem

/-! ### The resolution of the counter (45_frequency_counter.md R174) -/

/-- Either rounding of an exact count is less than one edge off. -/
theorem Freq.round_bounds {x : Freq} (den : 0 < x.den) (up : Bool) :
    x.round up * x.den < x.num + x.den ∧ x.num < x.round up * x.den + x.den := by
  cases up with
  | false =>
    have le : x.num / x.den * x.den ≤ x.num := Nat.div_mul_le_self _ _
    have lt : x.num < x.num / x.den * x.den + x.den := Nat.lt_div_mul_add den
    exact ⟨by simp only [Freq.round, Bool.false_eq_true, if_false]; omega,
      by simpa only [Freq.round, Bool.false_eq_true, if_false] using lt⟩
  | true =>
    have le : (x.num + x.den - 1) / x.den * x.den ≤ x.num + x.den - 1 := Nat.div_mul_le_self _ _
    have lt : x.num + x.den - 1 < (x.num + x.den - 1) / x.den * x.den + x.den := Nat.lt_div_mul_add den
    simp only [Freq.round, if_true]
    omega

/-- The scaled count is less than one unit below the exact quotient, as long as it does not saturate. -/
theorem scaledResult_bounds {c w : Nat} {refKhz : Word} (window : 0 < w) (fits : c * refKhz.toNat / w < 2 ^ 32) :
    (scaledResult c refKhz w).toNat * w ≤ c * refKhz.toNat ∧
      c * refKhz.toNat < (scaledResult c refKhz w).toNat * w + w := by
  rw [scaledResult_toNat, Nat.min_eq_right (by omega)]
  exact ⟨Nat.div_mul_le_self _ _, Nat.lt_div_mul_add window⟩

/-- Settles O39: the two roundings, of the count and of its scaling, then the rule's values by evaluation. -/
theorem counterResolution : Obligations.CounterResolution := by
  refine ⟨?bounds, by decide⟩
  intro a b k w up refKhz den refPos window stated c r fits
  obtain ⟨countHigh, countLow⟩ := Freq.round_bounds (x := edgeCount ⟨a, b⟩ (Freq.ofHz (1000 * k)) w)
    (Nat.mul_pos den (Nat.mul_pos (by decide) refPos)) up
  have scaled := scaledResult_bounds (refKhz := refKhz) window (by rwa [stated])
  rw [stated] at scaled
  obtain ⟨scaledLow, scaledHigh⟩ := scaled
  change c * (b * (1000 * k)) < a * w * 1 + b * (1000 * k) at countHigh
  change a * w * 1 < c * (b * (1000 * k)) + b * (1000 * k) at countLow
  have unit : 0 < 1000 * b := by omega
  have high : r * w * (1000 * b) ≤ c * k * (1000 * b) := Nat.mul_le_mul_right _ scaledLow
  have low : c * k * (1000 * b) < (r * w + w) * (1000 * b) := Nat.mul_lt_mul_of_pos_right scaledHigh unit
  constructor <;> linarith only [countHigh, countLow, high, low]

/-! ### A whole FC_MEASURE (45_frequency_counter.md R172, R174) -/

/-- The counter programmed for a measurement (45_frequency_counter.md R172 STEP 2 to 5). -/
def Counter.programmed (c : Counter) (khz : Word) (interval : BitVec 4) : Counter :=
  { c with refKhz := khz, interval := interval, minKhz := 0#32, maxKhz := 0xFFFFFFFF#32 }

/-- The programmed counter with a measurement of `src` in flight (45_frequency_counter.md R172 STEP 6). -/
def Counter.started (c : Counter) (khz : Word) (interval : BitVec 4) (src : BitVec 8) : Counter :=
  { c.programmed khz interval with
    src := src, running := true, done := false, pass := false, fail := false, window := windowOf khz interval, edges := 0,
    measured := src }

/-- A write of a source starts a measurement over the programmed window (10_state.md R55). -/
theorem Counter.writeSrc_programmed (c : Counter) (khz : Word) (interval : BitVec 4) {src : BitVec 8}
    (source : src ≠ 0#8) : (c.programmed khz interval).writeSrc src = c.started khz interval src := if_neg source

/-- Between the bounds 0 and 2^32 - 1 every result is: FC_STATUS reads DONE and PASS. -/
theorem Counter.statusWord_finish (c : Counter) (edges : Nat) (low : c.minKhz = 0#32) (high : c.maxKhz = 0xFFFFFFFF#32) :
    (c.finish edges).statusWord = 6#32 := by
  have within : ∀ v, c.inBounds v = true := fun v => by
    rw [Counter.inBounds_iff, low, high, decide_eq_true_eq]
    exact ⟨Nat.zero_le _, Nat.le_of_lt_succ v.isLt⟩
  have pass : (c.finish edges).pass = true := within _
  have fail : (c.finish edges).fail = false := congrArg not (within _)
  have done : (c.finish edges).done = true := rfl
  have stopped : (c.finish edges).running = false := rfl
  rw [Counter.statusWord, pass, fail, done, stopped]
  rfl

/-- The state `b` with the counter at `c`, the trace longer by `es`, the position at micro-operation `k` and the moves `ms`
to come: what a run of FC_MEASURE changes before its end. -/
def State.atFc (b : State) (c : Counter) (es : List TraceEntry) (k : BitVec 8) (ms : List Move) : State :=
  { b with fc := c, trace := b.trace ++ es, step := k, schedule := ms }

section
variable {b : State} {c c' : Counter} {es : List TraceEntry} {k k' : BitVec 8} {m : Move} {ms : List Move}

theorem step_atFc : step (b.atFc c es k (m :: ms)) = (b.atFc c es k ms).move m := step_of_move rfl

/-- The environment completes the measurement in flight while REF runs (10_state.md R55). -/
theorem step_fcDone_atFc {up : Bool} (running : c.running = true) (pos : (b.fOut .ref).pos = true) :
    step (b.atFc c es k (.env (.fcDone up) :: ms)) =
      .next (b.atFc (c.finish ((edgeCount (b.fSource c.measured) (b.fOut .ref) c.window).round up)) es k ms) := by
  have can : (b.atFc c es k ms).canFcDone = true := (State.canFcDone_iff _).mpr ⟨running, pos⟩
  rw [step_atFc, State.move, State.envStep, if_pos can]
  rfl

end

/-- FC_MEASURE with these operands is in flight, and no Wait of it has polled in vain. -/
structure MeasuresFc (b : State) (src : BitVec 8) (khz : Word) : Prop where
  busy : b.busy = true
  alive : b.fsm ≠ .failed
  cmd : b.cmd = encode (.fcMeasure src)
  work : b.work = .fc src khz
  poll : b.pollcnt = 0#32

section
variable {b : State} {src : BitVec 8} {khz : Word} (h : MeasuresFc b src khz) {c c' : Counter} {es : List TraceEntry}
  {k : BitVec 8} {ms : List Move}
include h

/-- An engine move runs the micro-operation at the position. -/
theorem MeasuresFc.step_eq (later : k ≠ 0#8) :
    step (b.atFc c es k (.engine :: ms)) =
      (b.atFc c es k ms).commandStep 0x60#8 0#4 (fcStep src khz k.toNat (b.atFc c es k ms)) := by
  have decoded : decode (b.atFc c es k ms).cmd = .ok (.fcMeasure src) := (decodeEncodeAgree _ _).mpr h.cmd
  calc step (b.atFc c es k (.engine :: ms)) = (b.atFc c es k ms).engineStep := step_atFc
    _ = exec (.fcMeasure src) (b.atFc c es k ms) := State.engineStep_decoded h.busy h.alive decoded
    _ = _ := exec_fcMeasure_later h.work later

/-- A RegWrite to the counter turns it into what the write stores, and moves on. -/
theorem MeasuresFc.step_write {r : Reg} {word : Word} {k' : BitVec 8} (later : k ≠ 0#8)
    (micro : fcStep src khz k.toNat (b.atFc c es k ms) = .cont (((b.atFc c es k ms).regWrite r word).goto k'))
    (stores : ∀ s : State, s.fc = c → s.regWrite r word = { s with fc := c', trace := s.trace ++ [.write r word] }) :
    step (b.atFc c es k (.engine :: ms)) = .next (b.atFc c' (es ++ [.write r word]) k' ms) := by
  rw [h.step_eq later, micro, stores _ rfl]
  simp [State.commandStep, State.atFc, State.goto]

/-- A Wait for FC_STATUS, satisfied (60_exceptions.md R203). -/
theorem MeasuresFc.step_wait {id : WaitId} {pred : Word → Bool} {k' : BitVec 8} (later : k ≠ 0#8)
    (micro : ∀ s, fcStep src khz k.toNat s = s.wait id .fcStatus pred k') (holds : pred c.statusWord = true) :
    step (b.atFc c es k (.engine :: ms)) = .next (b.atFc c (es ++ [.wait id .fcStatus c.statusWord]) k' ms) := by
  have reads : (b.atFc c es k ms).regRead .fcStatus = c.statusWord := rfl
  rw [h.step_eq later, micro, State.wait, reads, if_pos holds, State.waited, reads]
  simp [State.commandStep, State.atFc, State.traced, h.poll]

/-- STEP 8 gives the two results and completes. -/
theorem MeasuresFc.step_finish :
    step (b.atFc c es 8#8 (.engine :: ms)) =
      .next (((b.atFc c.forget es 8#8 ms).setX 4 c.result).setX 5 c.statusWord).complete := by
  rw [h.step_eq (by decide)]
  rfl

/-- FC_MEASURE from STEP 1 to Complete, with the counter's completion before the second Wait. -/
theorem MeasuresFc.run (idle : c.running = false) (source : src ≠ 0#8) (pos : (b.fOut .ref).pos = true) (up : Bool) :
    let interval := b.params.fcIntervalFixed
    let window := windowOf khz interval
    let edges := (edgeCount (b.fSource src) (b.fOut .ref) window).round up
    Sys2Proof.core.run 9
        (b.atFc c [] 1#8
          [.engine, .engine, .engine, .engine, .engine, .engine, .env (.fcDone up), .engine, .engine]) =
      .next (((b.atFc ((c.started khz interval src).finish edges).forget
        [.wait .fcIdle .fcStatus c.statusWord, .write .fcRefKhz khz, .write .fcInterval (interval.setWidth 32),
          .write .fcMinKhz 0#32, .write .fcMaxKhz 0xFFFFFFFF#32, .write .fcSrc (src.setWidth 32),
          .wait .fcDone .fcStatus 6#32] 8#8 []).setX 4 (scaledResult edges khz window)).setX 5 6#32).complete := by
  intro interval window edges
  have status : ((c.started khz interval src).finish edges).statusWord = 6#32 := Counter.statusWord_finish _ _ rfl rfl
  refine (run_succ (h.step_wait (id := .fcIdle) (pred := fun v => !v.getLsbD 0) (by decide) (fun _ => rfl)
    (by rw [show c.statusWord.getLsbD 0 = c.running from c.statusWord_running, idle]; rfl))).trans ?_
  refine (run_succ (h.step_write (by decide) rfl fun s at_ => by rw [State.regWrite_fcRefKhz, at_])).trans ?_
  refine (run_succ (h.step_write (by decide) rfl fun s at_ => by rw [State.regWrite_fcInterval, at_])).trans ?_
  refine (run_succ (h.step_write (by decide) rfl fun s at_ => by rw [State.regWrite_fcMinKhz, at_])).trans ?_
  refine (run_succ (h.step_write (by decide) rfl fun s at_ => by rw [State.regWrite_fcMaxKhz, at_])).trans ?_
  refine (run_succ (h.step_write (c' := c.started khz interval src) (by decide) rfl fun s at_ => by
    rw [State.regWrite_fcSrc, at_, ← c.writeSrc_programmed khz interval source]; rfl)).trans ?_
  refine (run_succ (step_fcDone_atFc rfl pos)).trans ?_
  refine (run_succ (h.step_wait (id := .fcDone) (pred := fun v => v.getLsbD 1) (by decide) (fun _ => rfl)
    (by rw [Counter.statusWord_finish _ _ rfl rfl]; rfl))).trans ?_
  refine (run_succ h.step_finish).trans ?_
  change Host.Outcome.next _ = _
  rw [← status]
  rfl

end

/-- The validation passes a source of R38 with a window that is not empty (45_frequency_counter.md R171). -/
theorem startFc_accepted {s : State} {src : BitVec 8} {khz : Word} (source : src ≠ 0#8) (known : src.toNat ≤ 10)
    (window : windowOf khz s.params.fcIntervalFixed ≠ 0) :
    startFc src khz s = .cont ((s.keep (.fc src khz)).goto 1#8) := by
  rw [startFc, if_neg (by simp [source, known]), if_neg window]

/-- A FC_MEASURE issued in `s`, with the operands its validation keeps. -/
def State.measuringFc (s : State) (src : BitVec 8) : State :=
  { s.issue (encode (.fcMeasure src)) with work := .fc src (s.xr 0) }

/-- STEP 0 of an issued FC_MEASURE that passes its validation. -/
theorem step_fcMeasure_issued {s : State} {src : BitVec 8} (fsm : s.fsm = .powerOnReset ∨ s.fsm = .ready)
    (source : src ≠ 0#8) (known : src.toNat ≤ 10) (window : windowOf (s.xr 0) s.params.fcIntervalFixed ≠ 0)
    (ms : List Move) :
    step { s.issue (encode (.fcMeasure src)) with schedule := .engine :: ms } =
      .next ((s.measuringFc src).atFc s.fc [] 1#8 ms) := by
  have alive : s.fsm ≠ .failed := by rcases fsm with e | e <;> simp [e]
  let u : State := { s.issue (encode (.fcMeasure src)) with schedule := ms }
  calc step { s.issue (encode (.fcMeasure src)) with schedule := .engine :: ms } = exec (.fcMeasure src) u :=
        step_issued alive ms
    _ = u.commandStep 0x60#8 0#4 (startFc src (u.xr 0) u) := exec_fcMeasure_start rfl fsm
    _ = .next ((u.keep (.fc src (u.xr 0))).goto 1#8) :=
        congrArg (u.commandStep 0x60#8 0#4) (startFc_accepted (s := u) (khz := u.xr 0) source known window)
    _ = .next ((s.measuringFc src).atFc s.fc [] 1#8 ms) := by
        simp [u, State.atFc, State.measuringFc, State.keep, State.goto, State.xr]

/-- Settles O59: STEP 0 by its validation, the rest by the run of `MeasuresFc`. -/
theorem fcMeasureCompletes : Obligations.FcMeasureCompletes := by
  intro s src up fsm source known window idle pos w r
  have alive : s.fsm ≠ .failed := by rcases fsm with e | e <;> simp [e]
  have measures : MeasuresFc (s.measuringFc src) src (s.xr 0) := ⟨rfl, alive, rfl, rfl, rfl⟩
  have run := measures.run idle source pos up
  refine ⟨_, (run_succ (step_fcMeasure_issued fsm source known window _)).trans run, rfl, rfl, rfl, rfl, rfl, rfl, ?status,
    rfl, rfl, rfl⟩
  exact Counter.statusWord_finish (s.fc.started _ _ src) _ rfl rfl

end Sys2Proof.Machine
end

section
/-! What is in flight belongs to its Wait (O51): the running measurement (45_frequency_counter.md R173), the pending switch
(10_state.md R43 (d)), and the step back before a source changes (43_clock_mux.md R142, 44_clock_divider.md R153). -/

namespace Sys2Proof.Machine

section
variable {s t u : State} {d : Dom}

/-! ### What is in flight, and the Wait that owns it -/

/-- A micro-operation at a Wait is the Wait's satisfied poll or an unsatisfied one. -/
theorem Ran.at_wait {w : Work} {k : Nat} {id : WaitId} {r : Reg} {pred : Word → Bool} {next : BitVec 8}
    (ran : Ran s w k (.cont u)) (at_ : waitAt w k = some (id, r, pred, next)) :
    (pred (s.regRead r) = true ∧ u = s.waited id r next) ∨ u = s.polled := by
  cases ran
  case waited holds at' =>
    cases at_.symm.trans at'
    exact .inl ⟨holds, rfl⟩
  case polled => exact .inr rfl
  all_goals simp_all [waitAt]

/-- The last micro-operation of an operation is no Wait. -/
theorem Ran.finish_no_wait {w : Work} {k : Nat} {results : List (Fin 8 × Word)} (ran : Ran s w k (.finish u results)) :
    waitAt w k = none := by
  cases ran <;> rfl

/-- A measurement in flight is at the Wait for DONE (45_frequency_counter.md R172 STEP 7). -/
theorem State.measuring.waitAt_eq (h : s.measuring) :
    waitAt s.work s.step.toNat = some (.fcDone, .fcStatus, fun v => v.getLsbD 1, 8#8) := by
  unfold State.measuring at h
  split at h
  case h_1 work => rw [work, h]; rfl
  case h_2 => exact h.elim

/-- A pending switch is at the Wait for the path it requests (43_clock_mux.md R142 M2, M5). -/
theorem State.switching.waitAt_eq (h : s.switching d) (two : d.twoStage = true) :
    ∃ next, waitAt s.work s.step.toNat =
      some (.muxSelected, .clkSelected d, fun v => v == selectedWord (s.dom d).main, next) := by
  unfold State.switching at h
  split at h
  case h_1 work =>
    rw [work]
    obtain ⟨rfl, ⟨at_, rfl, main⟩ | ⟨at_, main⟩⟩ := h <;> rw [at_, main] <;> exact ⟨_, rfl⟩
  case h_2 work =>
    rw [work]
    obtain ⟨rfl, ⟨at_, rfl, main⟩ | ⟨at_, main⟩⟩ := h <;> rw [at_, main] <;> exact ⟨_, if_pos (by simp [two])⟩
  case h_3 => exact h.elim

/-- The block is Failed, or a command is at a Wait: where a measurement or a switch may be in flight. -/
def State.holding (s : State) : Prop := s.fsm = .failed ∨ (s.busy = true ∧ s.atWait = true)

theorem State.not_holding_of_start (alive : s.fsm ≠ .failed) (start : s.step = 0#8) : ¬s.holding := by
  rintro (failed | ⟨_, at_⟩)
  · exact alive failed
  · simp [State.atWait_of_start start] at at_

/-- The engine's step at a Wait polls it, or ends in Failed. -/
theorem Executed.of_holding {i : Instr} (h : Executed s i t) (alive : s.fsm ≠ .failed) (held : s.holding) :
    t.fsm = .failed ∨ Ran s s.work s.step.toNat (.cont t) := by
  have notStart : s.step ≠ 0#8 := fun start => State.not_holding_of_start alive start held
  have waits : waitAt s.work s.step.toNat ≠ none := by
    rcases held with failed | ⟨_, at_⟩
    · exact absurd failed alive
    · exact State.waitAt_of_atWait at_
  refine h.keeps (P := fun u => u.fsm = .failed ∨ Ran s s.work s.step.toNat (.cont u))
    ?start ?cont ?finish ?next ?nop ?reject ?fatal ?ended
  case cont => exact fun _ _ _ _ _ ran => .inr ran
  case fatal => exact fun _ _ _ _ => .inl rfl
  case finish => exact fun _ _ _ _ _ _ ran => absurd ran.finish_no_wait waits
  case next => exact fun _ _ _ _ _ _ _ _ ran => absurd ran.finish_no_wait waits
  all_goals
    intros
    contradiction

/-- A move away from a Failed block or a command at a Wait leaves the block Failed, polls the Wait, or leaves the
position alone. -/
theorem Moved.of_holding (h : Moved s t) (pos : s.Positioned) (held : s.holding) :
    t.fsm = .failed ∨ (s.busy = true ∧ Ran s s.work s.step.toNat (.cont t)) ∨
      (t.fsm = s.fsm ∧ t.busy = s.busy ∧ t.work = s.work ∧ t.step = s.step) := by
  cases h with
  | idle => exact .inr (.inr ⟨rfl, rfl, rfl, rfl⟩)
  | illegal busy alive bad =>
    obtain ⟨_, start, _⟩ := pos.justIssued busy bad
    exact absurd held (State.not_holding_of_start alive start)
  | executed busy alive good run => exact (run.of_holding alive held).imp id fun ran => .inl ⟨busy, ran⟩
  | env e =>
    have drift := envStep_inv s e
    exact .inr (.inr ⟨drift.fsm_eq, drift.busy_eq, drift.work_eq, drift.step_eq⟩)
  | host a =>
    obtain ⟨u, b, served, e⟩ := hostAccess_inv s a
    rw [e]
    cases served with
    | issued w accepts =>
      obtain ⟨idle, alive⟩ := s.acceptsWrites_iff.mp accepts
      rcases held with failed | ⟨busy, _⟩
      · exact absurd failed alive
      · simp [idle] at busy
    | _ => exact .inr (.inr ⟨rfl, rfl, rfl, rfl⟩)

/-! ### The measurement in flight (45_frequency_counter.md R173) -/

/-- The last micro-operation keeps RUNNING and DONE: STEP 8 of FC_MEASURE clears only what no register shows. -/
theorem Ran.finish_running_done {w : Work} {k : Nat} {results : List (Fin 8 × Word)} (ran : Ran s w k (.finish u results)) :
    u.fc.running = s.fc.running ∧ u.fc.done = s.fc.done := by
  cases ran <;> exact ⟨rfl, rfl⟩

/-- A write of FC_SRC leaves the measurement alone, or starts one (10_state.md R55). -/
theorem Counter.writeSrc_running_done (c : Counter) (v : BitVec 8) :
    ((c.writeSrc v).running = c.running ∧ (c.writeSrc v).done = c.done) ∨ (c.writeSrc v).done = false := by
  unfold Counter.writeSrc
  split
  · exact .inl ⟨rfl, rfl⟩
  · exact .inr rfl

/-- Only STEP 6 of FC_MEASURE starts a measurement, and it leaves the command at its second Wait. -/
theorem Ran.running_cases {k : Nat} (ran : Ran s s.work k (.cont u)) :
    (u.fc.running = s.fc.running ∧ u.fc.done = s.fc.done) ∨ (u.measuring ∧ u.fc.done = false) := by
  by_cases hw : ∃ src refKhz, s.work = .fc src refKhz
  · obtain ⟨src, refKhz, hw⟩ := hw
    rw [hw] at ran
    cases ran
    case fc6 =>
      rw [State.regWrite_fcSrc]
      refine (s.fc.writeSrc_running_done src).imp id fun notDone => ⟨?_, notDone⟩
      simp [State.measuring, hw]
    all_goals exact .inl ⟨rfl, rfl⟩
  · rw [ran.fc_eq fun src refKhz e => hw ⟨src, refKhz, e⟩]
    exact .inl ⟨rfl, rfl⟩

/-- A move after which a measurement runs has found it running, or has started it. -/
theorem Moved.running_cases (h : Moved s t) (running : t.fc.running = true) :
    (s.fc.running = true ∧ t.fc.done = s.fc.done) ∨ (t.busy = true ∧ t.measuring ∧ t.fc.done = false) := by
  cases h with
  | idle | illegal => exact .inl ⟨running, rfl⟩
  | executed busy alive good run =>
    have counter : (t.fc.running = s.fc.running ∧ t.fc.done = s.fc.done) ∨
        (t.busy = true ∧ t.measuring ∧ t.fc.done = false) := by
      refine run.keeps (P := fun u => (u.fc.running = s.fc.running ∧ u.fc.done = s.fc.done) ∨
        (u.busy = true ∧ u.measuring ∧ u.fc.done = false)) ?start ?cont ?finish ?next ?nop ?reject ?fatal ?ended
      case cont => exact fun _ _ _ _ _ ran => ran.running_cases.imp id fun started => ⟨ran.busy_eq.trans busy, started⟩
      case finish => exact fun _ _ _ _ _ _ ran => .inl (by simpa using ran.finish_running_done)
      case next => exact fun _ _ _ _ _ _ _ _ ran => .inl (by simpa using ran.finish_running_done)
      all_goals
        intros
        exact .inl ⟨rfl, rfl⟩
    exact counter.imp (fun ⟨ran, done⟩ => ⟨ran ▸ running, done⟩) id
  | env e =>
    left
    have drift := envStep_inv s e
    generalize s.envStep e = u at drift running
    cases drift with
    | fcDone edges can => cases running
    | _ => exact ⟨running, rfl⟩
  | host a =>
    obtain ⟨u, b, served, e⟩ := hostAccess_inv s a
    rw [e] at running ⊢
    cases served <;> exact .inl ⟨running, rfl⟩

theorem State.measuring_congr (work : t.work = s.work) (step : t.step = s.step) : t.measuring ↔ s.measuring := by
  simp only [State.measuring, work, step]

theorem State.CounterOwned.holding (owned : s.CounterOwned) (running : s.fc.running = true) : s.holding :=
  (owned.running running).imp id fun ⟨busy, at_⟩ => ⟨busy, State.atWait_of_waitAt at_.waitAt_eq⟩

theorem Moved.counterOwned (h : Moved s t) (pos : s.Positioned) (owned : s.CounterOwned) : t.CounterOwned := by
  have key : t.fc.running = true →
      (t.fsm = .failed ∨ (t.busy = true ∧ t.measuring)) ∧ t.fc.done = false := by
    intro running
    rcases h.running_cases running with ⟨ran, done⟩ | ⟨busy, at_, done⟩
    case inr => exact ⟨.inr ⟨busy, at_⟩, done⟩
    refine ⟨?_, done.trans (owned.notDone ran)⟩
    rcases h.of_holding pos (owned.holding ran) with failed | ⟨busy, poll⟩ | ⟨fsm, busy, work, step⟩
    · exact .inl failed
    · rcases owned.running ran with failed | ⟨_, at_⟩
      · exact absurd failed (pos.busyFsm busy)
      rcases poll.at_wait at_.waitAt_eq with ⟨satisfied, _⟩ | rfl
      · have stop : s.fc.done = true := s.regRead_fcStatus_done.symm.trans satisfied
        simp [owned.notDone ran] at stop
      · exact .inr ⟨busy, at_⟩
    · rw [fsm, busy, State.measuring_congr work step]
      exact owned.running ran
  exact ⟨fun running => (key running).1, fun running => (key running).2⟩

/-! ### The pending switch (10_state.md R43 (d)) -/

theorem State.work_writeMain (m : Path) : (s.writeMain d m).work = s.work := State.regWrite_work ..

/-- MAIN of a two-stage domain is written by M1 and M4 only, which leave the sequence at its Wait for that path. -/
theorem Ran.main_cases {k : Nat} (ran : Ran s s.work k (.cont u)) (two : d.twoStage = true) :
    ((u.dom d).main = (s.dom d).main ∧ (u.dom d).selected = (s.dom d).selected) ∨ u.switching d := by
  cases hw : s.work
  case mux e main auxsrc stepped =>
    rw [hw] at ran
    by_cases same : d = e
    · subst same
      cases ran
      case mux1Write | mux4 => exact .inr (by simp [State.switching, State.work_writeMain, hw, two])
      all_goals exact .inl (by simp)
    · exact .inl (by cases ran <;> simp [same])
  case div e main auxsrc src div old stepped settle left =>
    rw [hw] at ran
    by_cases same : d = e
    · subst same
      cases ran
      case div2Write | div5Main => exact .inr (by simp [State.switching, State.work_writeMain, hw, two])
      all_goals exact .inl (by simp)
    · exact .inl (by cases ran <;> simp [same])
  all_goals
    rw [hw] at ran
    exact .inl (by simp [State.dom_congr (ran.doms_eq (by simp) (by simp))])

/-- A move after which a switch is pending has found it pending, or has requested it. -/
theorem Controlled.pending_cases (h : Controlled s t) (two : d.twoStage = true)
    (pending : (t.dom d).main ≠ (t.dom d).selected) :
    ((s.dom d).main ≠ (s.dom d).selected ∧ (t.dom d).main = (s.dom d).main) ∨ (t.busy = true ∧ t.switching d) := by
  have kept : (t.dom d).main = (s.dom d).main ∧ (t.dom d).selected = (s.dom d).selected →
      (s.dom d).main ≠ (s.dom d).selected ∧ (t.dom d).main = (s.dom d).main :=
    fun ⟨main, selected⟩ => ⟨by rwa [main, selected] at pending, main⟩
  cases h with
  | started => exact .inl (kept ⟨rfl, rfl⟩)
  | ran busy run => exact (run.main_cases two).imp kept fun requested => ⟨run.busy_eq.trans busy, requested⟩
  | ended same | kept same => exact .inl (kept (by rw [same.dom d]; exact ⟨rfl, rfl⟩))
  | drifted drift =>
    left
    cases drift with
    | muxFlip e =>
      by_cases same : d = e
      · subst same
        simp at pending
      · exact kept (by simp [same])
    | _ => exact kept ⟨rfl, rfl⟩

theorem State.switching_congr (work : t.work = s.work) (step : t.step = s.step) (main : (t.dom d).main = (s.dom d).main) :
    t.switching d ↔ s.switching d := by
  simp only [State.switching, work, step, main]

theorem State.SwitchOwned.holding (owned : s.SwitchOwned) (two : d.twoStage = true)
    (pending : (s.dom d).main ≠ (s.dom d).selected) : s.holding :=
  (owned d two pending).imp id fun ⟨busy, at_⟩ =>
    have ⟨_, wait⟩ := at_.waitAt_eq two
    ⟨busy, State.atWait_of_waitAt wait⟩

theorem Moved.switchOwned (h : Moved s t) (pos : s.Positioned) (owned : s.SwitchOwned) : t.SwitchOwned := by
  intro d two pending
  rcases h.controlled.pending_cases two pending with ⟨before, main⟩ | requested
  case inr => exact .inr requested
  rcases h.of_holding pos (owned.holding two before) with failed | ⟨busy, poll⟩ | ⟨fsm, busy, work, step⟩
  · exact .inl failed
  · rcases owned d two before with failed | ⟨_, at_⟩
    · exact absurd failed (pos.busyFsm busy)
    obtain ⟨next, wait⟩ := at_.waitAt_eq two
    rcases poll.at_wait wait with ⟨satisfied, _⟩ | rfl
    · rw [State.regRead_clkSelected_twoStage two, selectedWord_eq, beq_iff_eq] at satisfied
      exact absurd satisfied.symm before
    · exact .inr ⟨busy, at_⟩
  · rw [fsm, busy, State.switching_congr work step main]
    exact owned d two before

/-! ### Stepped back before the source changes (43_clock_mux.md R142, 44_clock_divider.md R153) -/

/-- Where M1 passes a switch to an auxiliary source, MAIN selects the reference path already. -/
theorem State.main_of_not_mustStepBack (two : d.twoStage = true) (stay : s.mustStepBack d .auxiliary = false) :
    (s.dom d).main = .reference := by
  cases main : (s.dom d).main with
  | reference => rfl
  | auxiliary => simp [(State.mustStepBack_iff two .auxiliary).mpr ⟨rfl, main⟩] at stay

/-- Between M1 and M4 of MUX_SWITCH to an auxiliary source MAIN selects the reference path. -/
theorem Ran.mux_steppedBack {auxsrc : BitVec 3} {stepped : Bool}
    (ran : Ran s (.mux d .auxiliary auxsrc stepped) s.step.toNat (.cont u)) (two : d.twoStage = true)
    (back : 2 ≤ s.step.toNat → s.step.toNat ≤ 4 → (s.dom d).main = .reference) (low : 2 ≤ u.step.toNat)
    (high : u.step.toNat ≤ 4) : (u.dom d).main = .reference := by
  generalize hk : s.step.toNat = k at ran
  cases ran
  case waited at_ =>
    obtain ⟨_, _, ⟨rfl, _, _, rfl⟩ | ⟨rfl, _, rfl⟩⟩ := waitAt_mux at_
    · exact back (by omega) (by omega)
    · simp at high
  case polled => exact back (hk ▸ low) (hk ▸ high)
  case mux1Write => simp [two]
  case mux1Pass stay => exact State.main_of_not_mustStepBack two stay
  case mux2Pass => exact back (by omega) (by omega)
  case mux3Write => simpa using back (by omega) (by omega)
  case mux4 => simp at high

/-- The domain of a DIV_APPLY in flight is ready for another source: it requests its reference path, or its gate is off. -/
def Domain.prepared (v : Domain) (d : Dom) (main : Path) : Prop :=
  if d.twoStage then main = .auxiliary → v.main = .reference else v.enable = false

/-- Between M1 and M4 of DIV_APPLY, or G1 and G4, the domain is ready for another source. -/
theorem Ran.div_steppedBack {main : Path} {auxsrc : BitVec 3} {src : Nat} {div old : Word} {stepped : Bool}
    {settle left : Nat} (ran : Ran s (.div d main auxsrc src div old stepped settle left) s.step.toNat (.cont u))
    (back : 3 ≤ s.step.toNat → s.step.toNat ≤ 5 → (s.dom d).prepared d main) (low : 3 ≤ u.step.toNat)
    (high : u.step.toNat ≤ 5) : (u.dom d).prepared d main := by
  generalize hk : s.step.toNat = k at ran
  cases ran
  case waited at_ =>
    obtain ⟨_, _, _, ⟨rfl, _, _, rfl⟩ | ⟨rfl, _, rfl⟩⟩ := waitAt_div at_
    · exact back (by omega) (by omega)
    · simp at high
  case polled => exact back (hk ▸ low) (hk ▸ high)
  case div2Write two _ => simp [Domain.prepared, two]
  case div2Pass two stay =>
    rw [Domain.prepared, if_pos two]
    rintro rfl
    exact State.main_of_not_mustStepBack two stay
  case div2Gated gated => simp [Domain.prepared, gated]
  case div3Pass | div3Settled | div3Settling | div4Pass => exact back (by omega) (by omega)
  case div4Write | div4Gated => simpa [Domain.prepared] using back (by omega) (by omega)
  all_goals simp at low high

/-- The clause of `SteppedBack` for each of the two switch sequences. -/
theorem State.steppedBack_mux {main : Path} {auxsrc : BitVec 3} {stepped : Bool}
    (work : s.work = .mux d main auxsrc stepped) :
    s.SteppedBack ↔ (main = .auxiliary → 2 ≤ s.step.toNat → s.step.toNat ≤ 4 → (s.dom d).main = .reference) := by
  rw [State.SteppedBack, work]

theorem State.steppedBack_div {main : Path} {auxsrc : BitVec 3} {src : Nat} {div old : Word} {stepped : Bool}
    {settle left : Nat} (work : s.work = .div d main auxsrc src div old stepped settle left) :
    s.SteppedBack ↔ (3 ≤ s.step.toNat → s.step.toNat ≤ 5 → (s.dom d).prepared d main) := by
  rw [State.SteppedBack, work]
  rfl

/-- No other operation changes a source. -/
theorem State.steppedBack_other (mux : ∀ d main auxsrc stepped, s.work ≠ .mux d main auxsrc stepped)
    (div : ∀ d main auxsrc src divisor old stepped settle left,
      s.work ≠ .div d main auxsrc src divisor old stepped settle left) : s.SteppedBack := by
  unfold State.SteppedBack
  split
  case h_1 work => exact absurd work (mux _ _ _ _)
  case h_2 work => exact absurd work (div _ _ _ _ _ _ _ _ _)
  case h_3 => trivial

/-- Before its first write a sequence has nothing to have stepped back from. -/
theorem State.steppedBack_of_early (early : s.step.toNat < 2) : s.SteppedBack := by
  unfold State.SteppedBack
  split
  · intros; omega
  · intros; omega
  · trivial

/-- A switch sequence in flight keeps its operands. -/
theorem Ran.work_mux {k : Nat} {main : Path} {auxsrc : BitVec 3} {stepped : Bool} (ran : Ran s s.work k (.cont u))
    (work : s.work = .mux d main auxsrc stepped) : ∃ stepped', u.work = .mux d main auxsrc stepped' := by
  rcases ran.work_cases with same | ⟨_, _, _, _, _, old, new⟩ | ⟨_, _, _, _, _, _, _, _, _, _, _, _, old, _⟩
  · exact ⟨stepped, same.trans work⟩
  · cases old.symm.trans work
    exact ⟨_, new⟩
  · cases old.symm.trans work

theorem Ran.work_div {k : Nat} {main : Path} {auxsrc : BitVec 3} {src : Nat} {div old : Word} {stepped : Bool}
    {settle left : Nat} (ran : Ran s s.work k (.cont u))
    (work : s.work = .div d main auxsrc src div old stepped settle left) :
    ∃ stepped' settle' left', u.work = .div d main auxsrc src div old stepped' settle' left' := by
  rcases ran.work_cases with same | ⟨_, _, _, _, _, before, _⟩ | ⟨_, _, _, _, _, _, _, _, _, _, _, _, before, new⟩
  · exact ⟨stepped, settle, left, same.trans work⟩
  · cases before.symm.trans work
  · cases before.symm.trans work
    exact ⟨_, _, _, new⟩

theorem Ran.steppedBack (ran : Ran s s.work s.step.toNat (.cont u)) (back : s.SteppedBack)
    (twoStage : ∀ d main auxsrc stepped, s.work = .mux d main auxsrc stepped → d.twoStage = true) : u.SteppedBack := by
  cases work : s.work with
  | mux d main auxsrc stepped =>
    obtain ⟨_, new⟩ := ran.work_mux work
    rw [State.steppedBack_mux new]
    rintro rfl
    rw [State.steppedBack_mux work] at back
    rw [work] at ran
    exact ran.mux_steppedBack (twoStage _ _ _ _ work) (back rfl)
  | div d main auxsrc src div old stepped settle left =>
    obtain ⟨_, _, _, new⟩ := ran.work_div work
    rw [State.steppedBack_div new]
    rw [State.steppedBack_div work] at back
    rw [work] at ran
    exact ran.div_steppedBack back
  | _ =>
    have same : u.work = s.work := by
      rcases ran.work_cases with same | ⟨_, _, _, _, _, old, _⟩ | ⟨_, _, _, _, _, _, _, _, _, _, _, _, old, _⟩
      · exact same
      all_goals cases old.symm.trans work
    exact State.steppedBack_other (by simp [same, work]) (by simp [same, work])

/-- What the host, the environment and the schedule leave alone keeps the sequence where it was. -/
theorem State.SteppedBack.congr (back : s.SteppedBack) (work : t.work = s.work) (step : t.step = s.step)
    (main : ∀ d, (t.dom d).main = (s.dom d).main) (enable : ∀ d, (t.dom d).enable = (s.dom d).enable) :
    t.SteppedBack := by
  simpa only [State.SteppedBack, work, step, main, enable] using back

theorem Controlled.steppedBack (h : Controlled s t) (pos : s.Positioned) (back : s.SteppedBack) : t.SteppedBack := by
  cases h with
  | started busy start passed => exact State.steppedBack_of_early (by simp)
  | ran busy run => exact run.steppedBack back fun _ _ _ _ work => pos.mux_twoStage busy work
  | ended same idle => exact State.steppedBack_other (by simp [idle]) (by simp [idle])
  | kept same work step =>
    exact back.congr work step (fun d => by rw [same.dom d]) (fun d => by rw [same.dom d])
  | drifted drift =>
    refine back.congr drift.work_eq drift.step_eq (fun d => ?_) (fun d => ?_)
    all_goals
      cases drift with
      | muxFlip e => simp only [State.dom_setDom]; split <;> simp_all
      | _ => rfl

end

/-- Settles O51: a running measurement and a pending switch hold the position at their Wait, and M1 or G1 comes before the
source changes. -/
theorem ownershipKept : Obligations.OwnershipKept := by
  intro s t pos h
  obtain ⟨ms, moved⟩ := step_inv h
  have pos' : { s with schedule := ms }.Positioned := pos.withSchedule ms
  refine ⟨fun owned => moved.counterOwned pos' ?counter, fun owned => moved.switchOwned pos' ?switch,
    fun back => moved.controlled.steppedBack pos' back⟩
  case counter => exact ⟨owned.running, owned.notDone⟩
  case switch => exact owned

end Sys2Proof.Machine
end

section
/-! The bring-up sequencer (46_bringup_sequencer.md): NOP (O13), the plan (O26), BRINGUP beside the commands of its
sub-operations (O27) and at each of its positions (O25), and its frame (O35). -/

namespace Sys2Proof.Machine

/-! ### NOP (46_bringup_sequencer.md R185) -/

/-- The one micro-operation of NOP completes, in either state in which NOP is accepted (30_encoding.md R87). -/
theorem exec_nop_start {s : State} (start : s.step = 0#8) (fsm : s.fsm = .powerOnReset ∨ s.fsm = .ready) :
    exec .nop s = .next s.complete := by
  have micro : s.microOf .nop = .finish s [] := if_pos start
  have gate : s.fsm = .powerOnReset ∨ (s.fsm = .ready ∧ acceptedInReady .nop = true) :=
    fsm.imp id fun ready => ⟨ready, rfl⟩
  rw [exec_eq_command rfl, State.command, if_pos start, State.gate_open gate, micro]
  rfl

/-- STATUS after a command that Ready accepts has completed: DONE and FSM = 8. -/
theorem State.statusWord_ready_done {t : State} (sub : t.sub = 0#8) (step : t.step = 0#8) (fsm : t.fsm = .ready)
    (overrun : t.overrun = false) (error : t.error = false) (done : t.done = true) (busy : t.busy = false) :
    t.statusWord = 0x82#32 := by
  rw [State.statusWord, sub, step, fsm, overrun, error, done, busy]
  rfl

/-- Settles O13: the completion of `exec_nop_start`, and after an issue what R86 has cleared. -/
theorem nopRuns : Obligations.NopRuns := by
  refine fun s fsm => ⟨fun start => exec_nop_start start fsm, fun ready overrun => ?_⟩
  have cleared : ErrReport.cleared.word = 0#32 := by decide
  refine ⟨_, exec_nop_start (s := s.issue 0x00000000#32) rfl fsm, ?_, cleared, rfl, rfl, rfl⟩
  exact State.statusWord_ready_done rfl rfl ready overrun rfl rfl rfl

/-! ### The plan (46_bringup_sequencer.md R186, R187) -/

/-- `plan_src_hz` on the reference path (46_bringup_sequencer.md R186); a gated domain has none (log entry 19). -/
def State.planReferenceHz (s : State) : Dom → Nat
  | .ref => s.params.bootHz
  | .sys => (s.dom .ref).hz.toNat
  | .usb => 0
  | .adc => 0
  | .rtc => 0
  | .peri => 0

/-- `plan_src_hz`, source by source. -/
theorem State.planSrcHz_eq (s : State) (d : Dom) (pl : Config.DomPlan) :
    s.planSrcHz d pl =
      if pl.main = .reference then s.planReferenceHz d
      else if pl.auxsrc = 0#3 then s.oscFreq.toNat
      else if pl.auxsrc = 1#3 then (s.pll .sys).outHz.toNat
      else if pl.auxsrc = 2#3 then (s.pll .aux).outHz.toNat
      else if pl.auxsrc = 3#3 then (s.dom .sys).hz.toNat
      else 0 := by
  have codes : ∀ a : BitVec 3,
      a = 0#3 ∨ a = 1#3 ∨ a = 2#3 ∨ a = 3#3 ∨ a = 4#3 ∨ a = 5#3 ∨ a = 6#3 ∨ a = 7#3 := by decide
  obtain ⟨main, auxsrc, destHz⟩ := pl
  cases main with
  | reference => cases d <;> rfl
  | auxiliary => rcases codes auxsrc with rfl | rfl | rfl | rfl | rfl | rfl | rfl | rfl <;> rfl

/-- SUB 12 + d measures domain d when verification is asked for (46_bringup_sequencer.md R190). -/
theorem State.planOp_verify (s : State) (d : Dom) : s.planOp true (12 + d.index) = some (s.planFc d) := by
  cases d <;> rfl

/-- Settles O26: the rows by evaluation, the sources of the six DIV_APPLY by `planSrcHz_eq`. -/
theorem bringupTable : Obligations.BringupTable := by
  intro s v p src
  have div : ∀ d pl, some (s.planDiv d pl) = some (.div (BitVec.ofNat 3 d.index) pl.main pl.auxsrc
      (src pl.main pl.auxsrc (s.planReferenceHz d)) pl.destHz) := fun d pl => by rw [State.planDiv, State.planSrcHz_eq]
  refine ⟨rfl, rfl, rfl, rfl, rfl, div .ref _, div .sys _, div .usb _, div .adc _, div .rtc _, div .peri _, rfl,
    fun k late => ?plain, fun k late last => ?verify, rfl⟩
  case plain =>
    have none : ¬ (s.planOp false k).isSome = true := by
      rw [s.planOp_isSome]
      rintro (early | ⟨verify, _⟩)
      · omega
      · cases verify
    simpa using none
  case verify => interval_cases k <;> rfl

/-! ### BRINGUP beside the commands of its sub-operations (46_bringup_sequencer.md R187, R189) -/

section
variable {s : State} {o : Op}

/-- A command reports the opcode and the index of its operation (10_state.md R14). -/
theorem opcode_unit_of_opOf {i : Instr} (own : isBringup i = false) (op : s.opOf i = some o) :
    opcode i = o.opcode ∧ unitOf i = o.unit := by
  cases i with
  | nop => cases op
  | bringup v => cases own
  | _ => cases op; exact ⟨rfl, rfl⟩

/-- The step of a command of its own, past its gate or where its gate opens. -/
theorem exec_own {i : Instr} (own : isBringup i = false) (op : s.opOf i = some o)
    (passes : s.step ≠ 0#8 ∨ s.fsm = .powerOnReset) : exec i s = s.commandStep o.opcode o.unit (runOp o s) := by
  obtain ⟨opc, unit⟩ := opcode_unit_of_opOf own op
  have micro : s.microOf i = runOp o s := by simp only [State.microOf, op]
  rw [exec_eq_command own, State.command, micro, opc, unit]
  split
  case isTrue start => exact State.gate_open (.inl (passes.resolve_left fun later => later start)) _ _ _
  case isFalse => rfl

/-- The step of BRINGUP at a sub-operation, past its gate or where its gate opens. -/
theorem exec_bringup_at {v : Bool} (op : s.planOp v s.sub.toNat = some o)
    (passes : s.sub ≠ 0#8 ∨ s.step ≠ 0#8 ∨ s.fsm = .powerOnReset) :
    exec (.bringup v) s = s.bringupStep s.sub.toNat o (runOp o s) := by
  have position : s.bringupAt v = s.bringupStep s.sub.toNat o (runOp o s) := by simp only [State.bringupAt, op]
  change execBringup v s = _
  rw [execBringup, position]
  split
  case isTrue first =>
    have reset : s.fsm = .powerOnReset :=
      (passes.resolve_left fun later => later first.1).resolve_left fun later => later first.2
    exact State.gate_open (.inl reset) _ _ _
  case isFalse => rfl

end

/-- Settles O27: both are their ending of the same `runOp`. -/
theorem subOperationsAreCommands : Obligations.SubOperationsAreCommands := by
  refine fun s o => ⟨fun i notBringup op passes => ?own, fun v op passes => ?sub⟩
  case own =>
    have own : isBringup i = false := by
      rw [← Bool.not_eq_true, isBringup_iff]
      exact fun ⟨v, e⟩ => notBringup v e
    rw [exec_own own op passes]
    exact ⟨fun _ run => by rw [run]; rfl, fun _ _ run => by rw [run]; rfl, fun _ run => by rw [run]; rfl,
      fun _ _ run => by rw [run]; rfl⟩
  case sub =>
    rw [exec_bringup_at op passes]
    exact ⟨fun _ run => by rw [run]; rfl, fun _ _ run => by rw [run]; rfl, fun _ run => by rw [run]; rfl,
      fun _ _ run => by rw [run]; rfl⟩

/-! ### BRINGUP at each of its positions (46_bringup_sequencer.md R187, R190) -/

/-- The end of a sub-operation of the table itself: its FSM value, and the next sub-operation. -/
theorem State.nextSub_eq (u : State) {sub : BitVec 8} (table : sub.toNat < 12) :
    u.nextSub sub.toNat =
      { u with fsm := fsmAfter sub.toNat, sub := sub + 1#8, step := 0#8, pollcnt := 0#32, work := .idle } := by
  have next : BitVec.ofNat 8 (sub.toNat + 1) = sub + 1#8 := by simp [BitVec.ofNat_add]
  rw [State.nextSub, if_neg (by omega), State.recordMeasurement, if_pos table, next]

/-- The end of a verification records the measured frequency of its domain (46_bringup_sequencer.md R190). -/
theorem State.measKhz_nextSub_verify (u : State) (d : Dom) :
    ((u.nextSub (12 + d.index)).dom d).measKhz = u.fc.result := by
  cases d <;> rfl

/-- The end of every verification but the last goes on to the next domain. -/
theorem State.nextSub_verify (u : State) {d : Dom} (more : d ≠ .peri) :
    (u.nextSub (12 + d.index)).busy = u.busy ∧ (u.nextSub (12 + d.index)).fsm = .allPeripheralsReleased ∧
      (u.nextSub (12 + d.index)).sub = BitVec.ofNat 8 (12 + d.index) + 1#8 ∧ (u.nextSub (12 + d.index)).step = 0#8 := by
  cases d with
  | peri => exact absurd rfl more
  | _ => exact ⟨rfl, rfl, rfl, rfl⟩

/-- STEP 8 of a verification ends its sub-operation. -/
theorem exec_bringup_verify {s : State} {d : Dom} {src : BitVec 8} {khz : Word} (sub : s.sub.toNat = 12 + d.index)
    (at_ : s.step = 8#8) (work : s.work = .fc src khz) :
    exec (.bringup true) s = .next ({ s with fc := s.fc.forget }.nextSub (12 + d.index)) := by
  have later : s.step ≠ 0#8 := by simp [at_]
  have op : s.planOp true s.sub.toNat = some (s.planFc d) := sub ▸ s.planOp_verify d
  have micro : runOp (s.planFc d) s = workStep (.fc src khz) 8 s := by
    rw [runOp_later later, work, show s.step.toNat = 8 by rw [at_]; rfl]
    rfl
  rw [exec_bringup_at op (.inr (.inl later)), micro, sub]
  rfl

/-- Settles O25: the first step by its validation, the later ones by `exec_bringup_at`, the end without verification by
the position SUB 12. -/
theorem bringupRuns : Obligations.BringupRuns := by
  intro s v run
  refine ⟨fun fsm sub step => ?start, fun o op later => ?later, ?verify, ?plain⟩
  case start =>
    have op : s.planOp v s.sub.toNat = some (.hold s.params.periphAll) := by rw [sub]; rfl
    change exec (.bringup v) s = _
    rw [exec_bringup_at op (.inr (.inr fsm)), runOp_start step, startOp, startHold,
      if_neg (by simp [BitVec.and_not_self])]
    rfl
  case later =>
    have position : run = s.bringupStep s.sub.toNat o (runOp o s) :=
      exec_bringup_at op ((not_and_or.mp later).imp id .inl)
    rw [position]
    refine ⟨fun t micro => by rw [micro]; rfl, fun t xs micro table => ?_, fun r micro => by rw [micro]; rfl⟩
    rw [micro]
    exact congrArg Host.Outcome.next (t.nextSub_eq table)
  case verify =>
    rintro rfl d sub at_ src khz work
    have sub' : s.sub = BitVec.ofNat 8 (12 + d.index) := by rw [← sub, BitVec.ofNat_toNat, BitVec.setWidth_eq]
    refine ⟨_, exec_bringup_verify sub at_ work, State.measKhz_nextSub_verify _ d, State.nextSub_x _ _,
      fun more => ?_, fun last => ?_⟩
    · rw [sub']
      exact State.nextSub_verify _ more
    · subst last
      exact ⟨rfl, rfl, rfl, rfl, rfl⟩
  case plain =>
    rintro rfl sub step
    have position : s.bringupAt false = .next s.bringupEnd := by
      simp [State.bringupAt, State.planOp, sub, step]
    change execBringup false s = _
    rw [execBringup, if_neg (by simp [sub]), position]
    rfl

/-! ### The frame of BRINGUP (46_bringup_sequencer.md R187) -/

section
variable {s t : State} {v : Bool}

/-- A property that every micro-operation and every ending of BRINGUP gives is one of each next state of BRINGUP. -/
theorem Executed.keeps_bringup {P : State → Prop} (h : Executed s (.bringup v) t)
    (start : ∀ w, P ((s.keep w).goto 1#8))
    (cont : ∀ u, Ran s s.work s.step.toNat (.cont u) → P u)
    (next : ∀ u rs, Ran s s.work s.step.toNat (.finish u rs) → P (u.nextSub s.sub.toNat))
    (reject : ∀ r opc unit, P (s.reject r opc unit)) (fatal : ∀ r stage opc unit, P (s.fatal r stage opc unit))
    (ended : P s.bringupEnd) : P t := by
  cases h with
  | locked => exact reject _ _ _
  | cont op gate run =>
    rcases runOp_cont run with ⟨_, w, _, rfl⟩ | ⟨_, _, ran⟩
    · exact start w
    · exact cont _ ran
  | subFinished op later kind ran => exact next _ _ ran
  | subRejected | subTimedOut => exact fatal _ _ _ _
  | bringupEnd => exact ended
  | rejected own | finished own | timedOut own => cases own

/-- The footprint of BRINGUP has the registers of every operation. -/
theorem Work.writes_subset_bringup (w : Work) : w.writes ⊆ footprint (.bringup v) := by
  cases w with
  | pll p => cases p <;> simp [Work.writes, footprint]
  | mux d | div d => cases d <;> simp [Work.writes, footprint, Dom.all]
  | _ => simp [Work.writes, footprint]

theorem State.regRead_recordMeasurement {r : Reg} (k : Nat) (notMeas : ∀ d, r ≠ .domMeasKhz d) :
    (s.recordMeasurement k).regRead r = s.regRead r := by
  have record : ∀ d, (s.setDom d { s.dom d with measKhz := s.fc.result }).regRead r = s.regRead r := by
    intro d
    cases r with
    | domMeasKhz e => exact absurd rfl (notMeas e)
    | domValid => cases d <;> rfl
    | domHz e | clkCtrl e | clkDiv e | clkSelected e =>
      simp only [State.regRead, State.dom_setDom]
      split
      case isTrue same => subst same; rfl
      case isFalse => rfl
    | _ => rfl
  unfold State.recordMeasurement
  split
  · rfl
  · split
    · exact record _
    · rfl

theorem State.regRead_bringupEnd {r : Reg} (notStatus : r ≠ .status) (notPollcnt : r ≠ .pollcnt) :
    s.bringupEnd.regRead r = s.regRead r := by
  cases r <;> first | rfl | exact absurd rfl notStatus | exact absurd rfl notPollcnt

/-- The end of a sub-operation changes STATUS, POLLCNT and a measured frequency. -/
theorem State.regRead_nextSub {r : Reg} (k : Nat) (notStatus : r ≠ .status) (notPollcnt : r ≠ .pollcnt)
    (notMeas : ∀ d, r ≠ .domMeasKhz d) : (s.nextSub k).regRead r = s.regRead r := by
  rw [← s.regRead_recordMeasurement k notMeas, State.nextSub]
  split
  · exact State.regRead_bringupEnd notStatus notPollcnt
  · cases r <;> first | rfl | exact absurd rfl notStatus | exact absurd rfl notPollcnt

/-- A step of BRINGUP changes the registers of its footprint only. -/
theorem Executed.bringup_regRead {r : Reg} (h : Executed s (.bringup v) t) (outside : r ∉ footprint (.bringup v)) :
    t.regRead r = s.regRead r := by
  have notCommon : r ∉ commonRegs := fun mem => outside (by simp [footprint, mem])
  have notStatus : r ≠ .status := fun e => notCommon (by simp [e, commonRegs])
  have notPollcnt : r ≠ .pollcnt := fun e => notCommon (by simp [e, commonRegs])
  have notMeas : ∀ d, r ≠ .domMeasKhz d := fun d e => outside (by cases d <;> simp [e, footprint, Dom.all])
  have notWritten : r ∉ s.work.writes := fun mem => outside (s.work.writes_subset_bringup mem)
  refine h.keeps_bringup (P := fun u => u.regRead r = s.regRead r) ?start ?cont ?next ?reject ?fatal ?ended
  case start => exact fun _ => (State.regRead_goto _ notStatus).trans (State.regRead_keep _)
  case cont => exact fun u ran => ran.regRead_eq notStatus notPollcnt notWritten
  case next =>
    exact fun u _ ran =>
      (State.regRead_nextSub _ notStatus notPollcnt notMeas).trans (ran.finish_regRead_eq notWritten)
  case reject => exact fun _ _ _ => State.regRead_reject _ _ _ notCommon
  case fatal => exact fun _ _ _ _ => State.regRead_fatal _ _ _ _ notCommon
  case ended => exact State.regRead_bringupEnd notStatus notPollcnt

/-- A step of BRINGUP sets no LOCK (10_state.md R53). -/
theorem Executed.bringup_lock (h : Executed s (.bringup v) t) (q : PllId) :
    (t.pll q).lock = true → (s.pll q).lock = true := by
  refine h.keeps_bringup (P := fun u => (u.pll q).lock = true → (s.pll q).lock = true) ?start ?cont ?next ?reject ?fatal
    ?ended
  case cont => exact fun _ ran => ran.lock_le q
  case next =>
    intro u _ ran lock
    rwa [State.pll_nextSub, ran.finish_sameControl.pll q] at lock
  all_goals
    intros
    assumption

end

/-- Settles O35: the registers by `Executed.bringup_regRead`, the environment's bits by the rules of every command. -/
theorem bringupFrame : Obligations.BringupFrame := by
  intro s t v run
  have done : Executed s (.bringup v) t := exec_inv run
  have kept : ∀ r, r ∉ footprint (.bringup v) → t.regRead r = s.regRead r := fun _ => done.bringup_regRead
  obtain ⟨noDone, noPass, noFail⟩ := done.raisesNoFlag
  exact ⟨State.sameBytesOutside_of_regRead kept, done.sameSurroundings,
    Vector.ext fun i small => kept (.x ⟨i, small⟩) (by simp [footprint, commonRegs, Dom.all]),
    kept .cmd (by simp [footprint, commonRegs, Dom.all]), kept .waitLimit (by simp [footprint, commonRegs, Dom.all]),
    done.stable_rstDone.1, done.stable_rstDone.2, done.bringup_lock, noDone, noPass, noFail⟩

end Sys2Proof.Machine
end

section
/-! What the bring-up has established: each sub-operation's result holds from its completion on (O53), and after Ready
no step of any agent changes the configuration (O55). -/

namespace Sys2Proof.Machine

/-! ### The milestones of the bring-up (46_bringup_sequencer.md R187, R191, R193) -/

/-- A result of the bring-up: the crystal, a PLL, a clock domain, or the whole release from reset. -/
inductive Milestone where
  | osc
  | pll (p : PllId)
  | dom (d : Dom)
  | released

/-- The sub-operation that establishes a milestone (46_bringup_sequencer.md R187). -/
def Milestone.sub : Milestone → Nat
  | .osc => 2
  | .pll .sys => 3
  | .pll .aux => 4
  | .dom d => 5 + d.index
  | .released => 11

/-- The milestone that a sub-operation establishes. -/
def Milestone.ofSub : Nat → Option Milestone
  | 2 => some .osc
  | 3 => some (.pll .sys)
  | 4 => some (.pll .aux)
  | 11 => some .released
  | k => (Dom.ofIndex (k - 5)).map .dom

theorem Milestone.ofSub_sub (m : Milestone) : ofSub m.sub = some m := by
  rcases m with _ | (_ | _) | (_ | _ | _ | _ | _ | _) | _ <;> rfl

/-- Each milestone has a sub-operation of its own. -/
theorem Milestone.sub_injective {m n : Milestone} (h : m.sub = n.sub) : m = n :=
  Option.some.inj (by rw [← m.ofSub_sub, h, n.ofSub_sub])

theorem Milestone.sub_bounds (m : Milestone) : 2 ≤ m.sub ∧ m.sub ≤ 11 := by
  rcases m with _ | (_ | _) | (_ | _ | _ | _ | _ | _) | _ <;> decide

/-- What has been established at a milestone. -/
def State.left (s : State) : Milestone → Prop
  | .osc => s.osc.ready = true
  | .pll p => (s.pll p).ready = true
  | .dom d => (s.dom d).valid = true ∧ (d.twoStage = false → (s.dom d).enable = true)
  | .released => s.rstCtrl = 0#32 ∧ s.rstDone = s.params.periphAll

theorem State.broughtUp_iff (s : State) : s.BroughtUp ↔ ∀ m, s.reached m.sub → s.left m := by
  constructor
  · rintro ⟨osc, pllSys, pllAux, dom, released⟩ (_ | (_ | _) | d | _) reached
    · exact osc reached
    · exact pllSys reached
    · exact pllAux reached
    · exact dom d reached
    · exact released reached
  · exact fun h => ⟨h .osc, h (.pll .sys), h (.pll .aux), fun d => h (.dom d), h .released⟩

/-! ### The operation in flight works on no milestone behind it -/

/-- `Planned s k o`: the plan has operation `o` as sub-operation `k` (46_bringup_sequencer.md R187, R190). -/
inductive Planned (s : State) : Nat → Op → Prop where
  | hold : Planned s 0 (.hold s.params.periphAll)
  | early : Planned s 1 (.release (s.params.periphAll &&& ~~~Config.lateSet))
  | osc (f : Word) : Planned s Milestone.osc.sub (.osc f)
  | pll (p : PllId) (pl : Config.PllPlan) : Planned s (Milestone.pll p).sub (planPll p pl)
  | dom (d : Dom) (pl : Config.DomPlan) : Planned s (Milestone.dom d).sub (s.planDiv d pl)
  | release : Planned s Milestone.released.sub (.release s.params.periphAll)
  | verify (d : Dom) : Planned s (12 + d.index) (s.planFc d)

theorem State.planOp_inv {s : State} {v : Bool} {k : Nat} {o : Op} (h : s.planOp v k = some o) : Planned s k o := by
  unfold State.planOp at h
  split at h
  case h_1 => cases h; exact .hold
  case h_2 => cases h; exact .early
  case h_3 => cases h; exact .osc _
  case h_4 => cases h; exact .pll .sys _
  case h_5 => cases h; exact .pll .aux _
  case h_6 => cases h; exact .dom .ref _
  case h_7 => cases h; exact .dom .sys _
  case h_8 => cases h; exact .dom .usb _
  case h_9 => cases h; exact .dom .adc _
  case h_10 => cases h; exact .dom .rtc _
  case h_11 => cases h; exact .dom .peri _
  case h_12 => cases h; exact .release
  case h_13 =>
    split at h <;> [skip; cases h]
    split at h <;> [skip; cases h]
    case h_1 d domain =>
      cases h
      have index := Dom.index_of_ofIndex domain
      have late : 12 ≤ k := by
        by_contra early
        interval_cases k <;> contradiction
      obtain rfl : k = 12 + d.index := by omega
      exact .verify d

/-- The operation in flight works on what the milestone is about. -/
def Work.worksOn : Work → Milestone → Prop
  | .hold _, .released => True
  | .release _, .released => True
  | .pll p _ _ _ _ _, .pll q => p = q
  | .mux d _ _ _, .dom e => d = e
  | .div d _ _ _ _ _ _ _ _, .dom e => d = e
  | _, _ => False

theorem Work.not_worksOn_idle (m : Milestone) : ¬ Work.idle.worksOn m := by cases m <;> exact id

theorem Work.not_worksOn_fc (src : BitVec 8) (khz : Word) (m : Milestone) : ¬ (Work.fc src khz).worksOn m := by
  cases m <;> exact id

theorem Work.worksOn_dom {w : Work} {d : Dom} : w.worksOn (.dom d) ↔ w.domain = some d := by
  cases w <;> simp [Work.worksOn, Work.domain]

/-- PLL_CFG in flight works on its own PLL. -/
theorem Op.latchedIn.pll_work {p : PllId} {pl : Config.PllPlan} {w : Work} (h : (planPll p pl).latchedIn w) :
    ∃ refdiv pd1 pd2 fbdiv vcoHz, w = .pll p refdiv pd1 pd2 fbdiv vcoHz := by
  cases w <;> first | exact h.elim | skip
  obtain ⟨rfl, _⟩ := h
  exact ⟨_, _, _, _, _, rfl⟩

/-- DIV_APPLY in flight works on its own domain. -/
theorem Op.latchedIn.div_work {s : State} {d : Dom} {pl : Config.DomPlan} {w : Work}
    (h : (s.planDiv d pl).latchedIn w) :
    ∃ main auxsrc src divisor old stepped settle left,
      w = .div d main auxsrc src divisor old stepped settle left := by
  cases w <;> first | exact h.elim | skip
  obtain ⟨domain, _⟩ := h
  have own : Dom.ofIndex (BitVec.ofNat 3 d.index).toNat = some d := by cases d <;> rfl
  cases own.symm.trans domain
  exact ⟨_, _, _, _, _, _, _, _, rfl⟩

/-- A sub-operation in flight works on its own milestone, if on any but a later one. -/
theorem Planned.le_of_worksOn {s : State} {k : Nat} {o : Op} {w : Work} {m : Milestone} (h : Planned s k o)
    (latched : o.latchedIn w) (works : w.worksOn m) : k ≤ m.sub := by
  obtain ⟨low, _⟩ := m.sub_bounds
  cases h with
  | hold | early => omega
  | osc => exact low
  | pll p pl =>
    obtain ⟨_, _, _, _, _, rfl⟩ := latched.pll_work
    cases m <;> first | exact works.elim | skip
    obtain rfl := works
    exact Nat.le_refl _
  | dom d pl =>
    obtain ⟨_, _, _, _, _, _, _, _, rfl⟩ := latched.div_work
    cases m <;> first | exact works.elim | skip
    obtain rfl := works
    exact Nat.le_refl _
  | release =>
    cases w <;> first | exact latched.elim | skip
    cases m <;> first | exact works.elim | exact Nat.le_refl _
  | verify d =>
    cases w <;> first | exact latched.elim | exact absurd works (Work.not_worksOn_fc _ _ m)

section
variable {s : State} {m : Milestone}

theorem Op.inFlight.latched_of_worksOn {o : Op} (h : o.inFlight s) (works : s.work.worksOn m) : o.latchedIn s.work := by
  rcases h with ⟨_, idle⟩ | ⟨_, _, latched⟩
  · rw [idle] at works
    exact absurd works (Work.not_worksOn_idle m)
  · exact latched

/-- BRINGUP works on no milestone behind it. -/
theorem State.inBringup.spares {v : Bool} (h : s.inBringup v) (reached : s.reached m.sub) : ¬ s.work.worksOn m := by
  obtain ⟨during, at_⟩ := h
  intro works
  have behind : m.sub < s.sub.toNat := by
    rcases reached with ready | ⟨_, _, behind⟩
    · exact absurd (during.symm.trans ready) (fsmDuring_ne_ready _)
    · exact behind
  split at at_
  case h_1 o plan =>
    have := (State.planOp_inv plan).le_of_worksOn (Op.inFlight.latched_of_worksOn at_ works) works
    omega
  case h_2 =>
    obtain ⟨_, _, _, idle⟩ := at_
    rw [idle] at works
    exact Work.not_worksOn_idle m works

/-- A command of its own in Ready is NOP or a measurement, and works on no milestone at all (30_encoding.md R87). -/
theorem State.inCommand.spares {i : Instr} (h : s.inCommand i) (ready : s.fsm = .ready) : ¬ s.work.worksOn m := by
  obtain ⟨_, fsm, at_⟩ := h
  intro works
  have accepted : acceptedInReady i = true := by
    rcases fsm with reset | ⟨_, accepted⟩
    · simp [ready] at reset
    · exact accepted
  rcases acceptedInReady_iff.mp accepted with rfl | ⟨src, rfl⟩
  · rw [at_.2] at works
    exact Work.not_worksOn_idle m works
  · have latched := Op.inFlight.latched_of_worksOn at_ works
    generalize s.work = w at latched works
    cases w <;> first | exact latched.elim | exact Work.not_worksOn_fc _ _ m works

/-- Whatever the block is doing, it does not work on a milestone it has reached. -/
theorem State.Positioned.spares (pos : s.Positioned) (busy : s.busy = true) (reached : s.reached m.sub) :
    ¬ s.work.worksOn m := by
  have issued : s.justIssued → ¬ s.work.worksOn m := fun ⟨_, _, idle, _⟩ => idle ▸ Work.not_worksOn_idle m
  cases decoded : decode s.fetch with
  | error e => exact issued (pos.justIssued busy decoded)
  | ok i =>
    have at_ := pos.atInstr busy decoded
    cases own : isBringup i with
    | true =>
      obtain ⟨v, rfl⟩ := isBringup_iff.mp own
      exact at_.elim issued fun running => running.spares reached
    | false =>
      refine ((State.atInstr_command own).mp at_).elim issued fun running => running.spares ?_
      rcases reached with ready | ⟨_, ⟨v, bringup⟩, _⟩
      · exact ready
      · cases decoded.symm.trans bringup
        cases own

end

/-! ### A milestone that the operation in flight does not work on stays -/

section
variable {s t u : State}

theorem Osc.Keeps.ready {o p : Osc} (h : o.Keeps p) (ready : o.ready = true) : p.ready = true := by
  rw [Osc.ready_iff] at ready ⊢
  exact ⟨h.enable ready.1, h.stable ready.2⟩

theorem State.SameControl.left (same : s.SameControl t) {m : Milestone} (h : s.left m) : t.left m := by
  cases m with
  | osc =>
    change t.osc.ready = true
    rw [same.osc]
    exact h
  | pll p =>
    change (t.pll p).ready = true
    rw [same.pll p]
    exact h
  | dom d =>
    refine ⟨same.valid d h.1, fun gated => ?_⟩
    rw [same.dom d]
    exact h.2 gated
  | released =>
    change t.rstCtrl = _ ∧ t.rstDone = t.params.periphAll
    rw [same.rstCtrl, same.rstDone, same.params]
    exact h

theorem Ran.left {w : Work} {k : Nat} (ran : Ran s w k (.cont u)) {m : Milestone} (spares : ¬ w.worksOn m)
    (h : s.left m) : u.left m := by
  cases m with
  | osc => exact ran.oscReady h
  | pll q =>
    have same : u.pll q = s.pll q := by
      by_cases hw : ∃ p refdiv pd1 pd2 fbdiv vcoHz, w = .pll p refdiv pd1 pd2 fbdiv vcoHz
      · obtain ⟨p, refdiv, pd1, pd2, fbdiv, vcoHz, rfl⟩ := hw
        exact ran.pll_eq_of_ne fun same => spares same.symm
      · exact State.pll_congr
          (ran.plls_eq fun p refdiv pd1 pd2 fbdiv vcoHz e => hw ⟨p, refdiv, pd1, pd2, fbdiv, vcoHz, e⟩) q
    change (u.pll q).ready = true
    rw [same]
    exact h
  | dom d =>
    change (u.dom d).valid = true ∧ (d.twoStage = false → (u.dom d).enable = true)
    rw [ran.dom_eq_of_ne (Work.worksOn_dom.not.mp spares)]
    exact h
  | released =>
    change u.rstCtrl = _ ∧ u.rstDone = u.params.periphAll
    have hold : ∀ set, w ≠ .hold set := fun set e => spares (e ▸ trivial)
    have release : ∀ set, w ≠ .release set := fun set e => spares (e ▸ trivial)
    rw [ran.rstCtrl_eq hold release, ran.rstDone_eq hold release, ran.params_eq]
    exact h

/-- Where every peripheral has come out of reset, no reset-done is enabled (10_state.md R51). -/
theorem State.canResetDone_of_allDone (done : s.rstDone = s.params.periphAll) (p : Fin 32) :
    s.canResetDone p = false := by
  rw [State.canResetDone, done]
  cases s.params.periphAll.getLsbD p <;> simp

/-- The environment undoes no milestone. -/
theorem Drifted.left (drift : Drifted s t) {m : Milestone} (h : s.left m) : t.left m := by
  cases m with
  | osc => exact drift.osc_keeps.ready h
  | pll p =>
    cases drift with
    | pllLock q =>
      exact State.setPll_forall (P := fun p v => (s.pll p).ready = true → v.ready = true)
        (v := { s.pll q with lock := true }) (fun _ => id) (fun ready => by simp_all [Pll.ready]) p h
    | _ => exact h
  | dom d =>
    cases drift with
    | muxFlip e =>
      exact State.setDom_forall
        (P := fun d v => (s.dom d).valid = true ∧ (d.twoStage = false → (s.dom d).enable = true) →
          v.valid = true ∧ (d.twoStage = false → v.enable = true))
        (v := { s.dom e with selected := (s.dom e).main }) (fun _ => id) id d h
    | _ => exact h
  | released =>
    cases drift with
    | resetDone p can => simp [State.canResetDone_of_allDone h.2] at can
    | _ => exact h

theorem Controlled.left (h : Controlled s t) {m : Milestone} (spares : s.busy = true → ¬ s.work.worksOn m)
    (left : s.left m) : t.left m := by
  cases h with
  | started => cases m <;> exact left
  | ran busy run => exact run.left (spares busy) left
  | ended same | kept same => exact same.left left
  | drifted drift => exact drift.left left

/-! ### The progress of the operation in flight -/

theorem State.progress_release {set : Word} (work : s.work = .release set) :
    s.Progress ↔ (2 ≤ s.step.toNat → s.rstCtrl &&& set = 0#32) ∧ (3 ≤ s.step.toNat → s.rstDone &&& set = set) := by
  rw [State.Progress, work]

theorem State.progress_osc {f : Word} {delay : BitVec 16} (work : s.work = .osc f delay) :
    s.Progress ↔ (3 ≤ s.step.toNat → s.osc.enable = true) ∧ (5 ≤ s.step.toNat → s.osc.stable = true) := by
  rw [State.Progress, work]

theorem State.progress_div {d : Dom} {main : Path} {auxsrc : BitVec 3} {src : Nat} {div old : Word} {stepped : Bool}
    {settle left : Nat} (work : s.work = .div d main auxsrc src div old stepped settle left) :
    s.Progress ↔ (d.twoStage = false → 6 ≤ s.step.toNat → (s.dom d).enable = true) := by
  rw [State.Progress, work]

/-- Of the other operations nothing is asked. -/
theorem State.progress_other (release : ∀ set, s.work ≠ .release set) (osc : ∀ f delay, s.work ≠ .osc f delay)
    (div : ∀ d main auxsrc src divisor old stepped settle left,
      s.work ≠ .div d main auxsrc src divisor old stepped settle left) : s.Progress := by
  unfold State.Progress
  split
  case h_1 work => exact absurd work (release _)
  case h_2 work => exact absurd work (osc _ _)
  case h_3 work => exact absurd work (div _ _ _ _ _ _ _ _ _)
  case h_4 => trivial

/-- Before its first write an operation has established nothing. -/
theorem State.progress_of_early (early : s.step.toNat < 2) : s.Progress := by
  unfold State.Progress
  split
  · exact ⟨fun _ => by omega, fun _ => by omega⟩
  · exact ⟨fun _ => by omega, fun _ => by omega⟩
  · exact fun _ _ => by omega
  · trivial

/-- Bits found among some of a word's are found in the word. -/
theorem and_eq_right_of_and_and {a m b : Word} (h : a &&& m &&& b = b) : a &&& b = b := by
  calc a &&& b = a &&& (a &&& m &&& b) := by rw [h]
    _ = a &&& m &&& b := by rw [← BitVec.and_assoc, ← BitVec.and_assoc, BitVec.and_self]
    _ = b := h

/-- RST_RELEASE takes its set out of RST_CTRL, then waits for it in RST_DONE (40_reset_controller.md R102). -/
theorem Ran.release_progress {set : Word} (ran : Ran s (.release set) s.step.toNat (.cont u))
    (back : 2 ≤ s.step.toNat → s.rstCtrl &&& set = 0#32) (found : 3 ≤ s.step.toNat → s.rstDone &&& set = set) :
    (2 ≤ u.step.toNat → u.rstCtrl &&& set = 0#32) ∧ (3 ≤ u.step.toNat → u.rstDone &&& set = set) := by
  generalize hk : s.step.toNat = k at ran back found
  cases ran
  case polled => exact ⟨fun low => back (hk ▸ low), fun low => found (hk ▸ low)⟩
  case waited holds at_ =>
    obtain ⟨rfl, _, rfl, rfl, rfl⟩ := waitAt_release at_
    exact ⟨fun _ => back (by decide), fun _ => and_eq_right_of_and_and (beq_iff_eq.mp holds)⟩
  case release1 =>
    refine ⟨fun _ => ?_, fun late => absurd late (by simp)⟩
    change (s.regRead .rstCtrl &&& ~~~set &&& s.params.periphAll) &&& set = 0#32
    rw [BitVec.and_comm _ set, ← BitVec.and_assoc, BitVec.and_comm _ (~~~set), ← BitVec.and_assoc, BitVec.and_not_self]
    simp

/-- OSC_START enables the crystal, then waits for STABLE (41_oscillator.md R111). -/
theorem Ran.osc_progress {f : Word} {delay : BitVec 16} (ran : Ran s (.osc f delay) s.step.toNat (.cont u))
    (enabled : 3 ≤ s.step.toNat → s.osc.enable = true) (stable : 5 ≤ s.step.toNat → s.osc.stable = true) :
    (3 ≤ u.step.toNat → u.osc.enable = true) ∧ (5 ≤ u.step.toNat → u.osc.stable = true) := by
  have keeps := ran.osc_keeps
  generalize hk : s.step.toNat = k at ran enabled stable
  cases ran
  case polled => exact ⟨fun low => enabled (hk ▸ low), fun low => stable (hk ▸ low)⟩
  case waited holds at_ =>
    obtain ⟨rfl, _, rfl, rfl, rfl⟩ := waitAt_osc at_
    exact ⟨fun _ => enabled (by decide), fun _ => s.regRead_oscStatus_stable.symm.trans holds⟩
  case osc1 => exact ⟨fun late => absurd late (by simp), fun late => absurd late (by simp)⟩
  case osc2 => exact ⟨fun _ => by simp [State.regWrite_oscCtrl], fun late => absurd late (by simp)⟩
  case osc3 => exact ⟨fun _ => keeps.enable (enabled (by decide)), fun late => absurd late (by simp)⟩

/-- DIV_APPLY enables a gated domain with G4 (44_clock_divider.md R153). -/
theorem Ran.div_progress {d : Dom} {main : Path} {auxsrc : BitVec 3} {src : Nat} {div old : Word} {stepped : Bool}
    {settle left : Nat} (ran : Ran s (.div d main auxsrc src div old stepped settle left) s.step.toNat (.cont u))
    (gated : d.twoStage = false) (enabled : 6 ≤ s.step.toNat → (s.dom d).enable = true) (late : 6 ≤ u.step.toNat) :
    (u.dom d).enable = true := by
  generalize hk : s.step.toNat = k at ran enabled
  cases ran
  case polled => exact enabled (hk ▸ late)
  case waited at_ =>
    obtain ⟨two, _⟩ := waitAt_div at_
    simp [gated] at two
  case div3Settling => exact enabled (hk ▸ late)
  case div5Main two => simp [gated] at two
  case div5Gated => simp [gated]
  case div6Pass => exact enabled (by decide)
  case div7 => simpa using enabled (by decide)
  all_goals simp at late

theorem Ran.progress (ran : Ran s s.work s.step.toNat (.cont u)) (h : s.Progress) : u.Progress := by
  have kept : (∀ d main auxsrc stepped, s.work ≠ .mux d main auxsrc stepped) →
      (∀ d main auxsrc src div old stepped settle left, s.work ≠ .div d main auxsrc src div old stepped settle left) →
      u.work = s.work := by
    intro mux div
    rcases ran.work_cases with same | ⟨_, _, _, _, _, old, _⟩ | ⟨_, _, _, _, _, _, _, _, _, _, _, _, old, _⟩
    · exact same
    · exact absurd old (mux _ _ _ _)
    · exact absurd old (div _ _ _ _ _ _ _ _ _)
  cases work : s.work with
  | release set =>
    obtain ⟨back, found⟩ := (State.progress_release work).mp h
    rw [State.progress_release ((kept (by simp [work]) (by simp [work])).trans work)]
    rw [work] at ran
    exact ran.release_progress back found
  | osc f delay =>
    obtain ⟨enabled, stable⟩ := (State.progress_osc work).mp h
    rw [State.progress_osc ((kept (by simp [work]) (by simp [work])).trans work)]
    rw [work] at ran
    exact ran.osc_progress enabled stable
  | div d main auxsrc src div old stepped settle left =>
    obtain ⟨_, _, _, new⟩ := ran.work_div work
    rw [State.progress_div new]
    rw [State.progress_div work] at h
    rw [work] at ran
    exact fun gated => ran.div_progress gated (h gated)
  | mux d main auxsrc stepped =>
    obtain ⟨_, new⟩ := ran.work_mux work
    exact State.progress_other (by simp [new]) (by simp [new]) (by simp [new])
  | _ =>
    have same := (kept (by simp [work]) (by simp [work])).trans work
    exact State.progress_other (by simp [same]) (by simp [same]) (by simp [same])

/-- The progress in flight stays while its registers keep what it has established. -/
theorem State.Progress.mono (h : s.Progress) (work : t.work = s.work) (step : t.step = s.step)
    (rstCtrl : t.rstCtrl = s.rstCtrl) (rstDone : ∀ set, s.rstDone &&& set = set → t.rstDone &&& set = set)
    (osc : s.osc.Keeps t.osc) (enable : ∀ d, (t.dom d).enable = (s.dom d).enable) : t.Progress := by
  unfold State.Progress at h ⊢
  rw [work, step]
  split at h
  case h_1 => exact ⟨rstCtrl ▸ h.1, fun late => rstDone _ (h.2 late)⟩
  case h_2 => exact ⟨fun late => osc.enable (h.1 late), fun late => osc.stable (h.2 late)⟩
  case h_3 => exact fun gated late => (enable _).trans (h gated late)
  case h_4 => trivial

/-- Bits found in a word are found in a word that has more. -/
theorem or_and_eq_right {a m b : Word} (h : a &&& b = b) : (a ||| m) &&& b = b := by
  rw [BitVec.and_or_distrib_right, h]
  ext i hi
  cases bit : b[i] <;> simp [bit]

theorem Drifted.progress (drift : Drifted s t) (h : s.Progress) : t.Progress := by
  refine h.mono drift.work_eq drift.step_eq ?rstCtrl ?rstDone drift.osc_keeps ?enable
  case rstCtrl => cases drift <;> rfl
  case rstDone =>
    cases drift with
    | resetDone p => exact fun _ => or_and_eq_right
    | _ => exact fun _ => id
  case enable =>
    cases drift with
    | muxFlip e =>
      exact State.setDom_forall (P := fun d v => v.enable = (s.dom d).enable)
        (v := { s.dom e with selected := (s.dom e).main }) (fun _ => rfl) rfl
    | _ => exact fun _ => rfl

theorem Controlled.progress (h : Controlled s t) (progress : s.Progress) : t.Progress := by
  cases h with
  | started => exact State.progress_of_early (by simp)
  | ran _ run => exact run.progress progress
  | ended same idle => exact State.progress_other (by simp [idle]) (by simp [idle]) (by simp [idle])
  | kept same work step =>
    have enable : ∀ d, (t.dom d).enable = (s.dom d).enable := fun d => by rw [same.dom d]
    exact progress.mono work step same.rstCtrl (fun _ => same.rstDone ▸ id) (.of_eq same.osc) enable
  | drifted drift => exact drift.progress progress

/-! ### A completed sub-operation has reached its milestone -/

/-- The last micro-operation of a milestone's sub-operation leaves the milestone established. -/
theorem Planned.left {m : Milestone} {o : Op} {results : List (Fin 8 × Word)} (planned : Planned s m.sub o)
    (latched : o.latchedIn s.work) (ran : Ran s s.work s.step.toNat (.finish u results)) (lines : s.ResetLines)
    (lock : s.LockOrder) (progress : s.Progress) : u.left m := by
  generalize hm : m.sub = k at planned
  obtain ⟨low, high⟩ := m.sub_bounds
  cases planned with
  | hold | early => omega
  | osc f =>
    obtain rfl := Milestone.sub_injective (n := .osc) hm
    cases work : s.work <;> rw [work] at latched ran <;> first | exact latched.elim | skip
    obtain ⟨enabled, stable⟩ := (State.progress_osc work).mp progress
    refine ran.finish_sameControl.left ((Osc.ready_iff _).mpr ?_)
    generalize hk : s.step.toNat = k at ran
    cases ran
    exact ⟨enabled (by omega), stable (by omega)⟩
  | pll p pl =>
    obtain rfl := Milestone.sub_injective (n := .pll p) hm
    obtain ⟨_, _, _, _, _, work⟩ := latched.pll_work
    obtain ⟨_, stage⟩ := (State.lockStage_pll work).mp lock.stage
    rw [work] at ran
    refine ran.finish_sameControl.left ((Pll.ready_iff _).mpr ?_)
    generalize hk : s.step.toNat = k at ran stage
    cases ran
    exact ⟨stage.locked (by decide), stage.up (by decide)⟩
  | dom d pl =>
    obtain rfl := Milestone.sub_injective (n := .dom d) hm
    obtain ⟨_, _, _, _, _, _, _, _, work⟩ := latched.div_work
    have enabled := (State.progress_div work).mp progress
    rw [work] at ran
    generalize hk : s.step.toNat = k at ran enabled
    cases ran
    change (State.dom (s.describeDom d _) d).valid = true ∧ (_ → (State.dom (s.describeDom d _) d).enable = true)
    rw [State.dom_describeDom, if_pos rfl]
    exact ⟨rfl, fun gated => enabled gated (by decide)⟩
  | release =>
    obtain rfl := Milestone.sub_injective (n := .released) hm
    cases work : s.work <;> rw [work] at latched ran <;> first | exact latched.elim | skip
    obtain rfl := latched
    obtain ⟨back, found⟩ := (State.progress_release work).mp progress
    refine ran.finish_sameControl.left ?_
    generalize hk : s.step.toNat = k at ran back found
    cases ran
    refine ⟨?_, ?_⟩
    · rw [← and_eq_left_iff.mpr lines.held, back (by decide)]
    · rw [← and_eq_left_iff.mpr lines.done, found (by decide)]
  | verify d => omega

/-! ### Which milestones a move reaches -/

theorem State.reached_congr (fsm : t.fsm = s.fsm) (busy : t.busy = s.busy) (cmd : t.cmd = s.cmd) (sub : t.sub = s.sub)
    (k : Nat) : t.reached k ↔ s.reached k := by
  simp only [State.reached, State.fetch, fsm, busy, cmd, sub]

/-- A block at rest, or at the first position of a command, has reached something only if it is Ready. -/
theorem State.reached.ready {k : Nat} (h : t.reached k) (rest : t.busy = false ∨ t.sub = 0#8) : t.fsm = .ready := by
  rcases h with ready | ⟨busy, _, later⟩
  · exact ready
  · rcases rest with idle | first
    · simp [idle] at busy
    · simp [first] at later

/-- The end of a sub-operation reaches no more than that sub-operation. -/
theorem State.reached_nextSub {j k : Nat} (small : j ≤ 17) (table : k ≤ 11) (h : (u.nextSub j).reached k) : k ≤ j := by
  by_cases last : j = 17
  · omega
  · obtain ⟨fsm, sub, _⟩ := u.nextSub_of_lt (k := j) (by omega)
    rcases h with ready | ⟨_, _, later⟩
    · exact absurd (fsm.symm.trans ready) (fsmDuring_ne_ready (j + 1))
    · omega

/-- Sub-operation `k` of BRINGUP ends with this move: its last micro-operation leaves `t`. -/
def State.EndsSub (s t : State) (k : Nat) : Prop :=
  ∃ o u results, Planned s k o ∧ o.latchedIn s.work ∧ Ran s s.work s.step.toNat (.finish u results) ∧ t = u.nextSub k

/-- No step of a command writes CMD. -/
theorem Executed.cmd_eq {i : Instr} (h : Executed s i t) : t.cmd = s.cmd := by
  refine h.keeps (P := fun u => u.cmd = s.cmd) ?start ?cont ?finish ?next ?nop ?reject ?fatal ?ended
  case cont => exact fun _ _ _ _ _ ran => ran.cmd_eq
  case finish => exact fun _ _ _ _ _ _ ran => by simp [ran.finish_cmd]
  case next => exact fun _ _ _ _ _ _ _ _ ran => by simp [ran.finish_cmd]
  all_goals
    intros
    rfl

/-- BRINGUP reaches what it had reached, and at the end of a sub-operation that one. -/
theorem Executed.bringup_reached {v : Bool} {k : Nat} (h : Executed s (.bringup v) t) (busy : s.busy = true)
    (good : decode s.fetch = .ok (.bringup v)) (at_ : s.atInstr (.bringup v)) (table : k ≤ 11) (reached : t.reached k) :
    s.reached k ∨ s.EndsSub t k := by
  have behind : k < s.sub.toNat → s.reached k := fun later => .inr ⟨busy, ⟨v, good⟩, later⟩
  cases h with
  | locked =>
    have ready := reached.ready (.inl rfl)
    exact .inl (.inl ready)
  | cont op gate run =>
    obtain ⟨_, _, fsm, sub, busy', cmd⟩ := runOp_cont_inFlight run op (at_.inFlight op)
    exact .inl ((State.reached_congr fsm busy' cmd sub k).mp reached)
  | @subFinished _ o u results op later kind ran =>
    have here : s.sub.toNat ≤ 17 := ((s.planOp_isSome v _).mp (by simp [op])).elim (by omega) And.right
    rcases Nat.lt_or_eq_of_le (State.reached_nextSub here table reached) with before | rfl
    · exact .inl (behind before)
    · exact .inr ⟨o, u, results, State.planOp_inv op, (at_.inFlight op).latched kind, ran, rfl⟩
  | subRejected | subTimedOut =>
    have ready := reached.ready (.inl rfl)
    cases ready
  | bringupEnd atEnd => exact .inl (behind (by rw [atEnd]; exact Nat.lt_succ_of_le table))
  | rejected own | finished own | timedOut own => cases own

theorem Moved.reached_cases {k : Nat} (h : Moved s t) (pos : s.Positioned) (table : k ≤ 11) (reached : t.reached k) :
    s.reached k ∨ s.EndsSub t k := by
  cases h with
  | idle => exact .inl reached
  | illegal =>
    have ready := reached.ready (.inl rfl)
    exact .inl (.inl ready)
  | @executed i _ busy alive good run =>
    have at_ := pos.atInstr busy good
    cases own : isBringup i with
    | true =>
      obtain ⟨v, rfl⟩ := isBringup_iff.mp own
      exact run.bringup_reached busy good at_ table reached
    | false =>
      left
      rcases reached with ready | ⟨_, ⟨v, bringup⟩, _⟩
      · rcases run.own_fsm own with same | failed
        · exact .inl (same.symm.trans ready)
        · simp [ready] at failed
      · rw [State.fetch, run.cmd_eq] at bringup
        cases good.symm.trans bringup
        cases own
  | env e =>
    have drift := envStep_inv s e
    exact .inl ((State.reached_congr drift.fsm_eq drift.busy_eq drift.cmd_eq drift.sub_eq k).mp reached)
  | host a =>
    left
    obtain ⟨u, b, served, e⟩ := hostAccess_inv s a
    rw [e] at reached
    cases served with
    | issued w accepts =>
      have ready := reached.ready (.inr rfl)
      exact .inl ready
    | _ => exact reached

theorem Moved.broughtUp (h : Moved s t) (pos : s.Positioned) (lines : s.ResetLines) (lock : s.LockOrder)
    (progress : s.Progress) (up : s.BroughtUp) : t.BroughtUp := by
  rw [State.broughtUp_iff] at up ⊢
  intro m reached
  rcases h.reached_cases pos m.sub_bounds.2 reached with before | ⟨o, u, results, planned, latched, ran, rfl⟩
  · exact h.controlled.left (fun busy => pos.spares busy before) (up m before)
  · exact (State.nextSub_sameControl u _).left (planned.left latched ran lines lock progress)

end

/-- Settles O53: the operation in flight works on no milestone behind it, and its last micro-operation reaches the
next. -/
theorem broughtUpKept : Obligations.BroughtUpKept := by
  intro s t pos lines lock progress up h
  obtain ⟨ms, moved⟩ := step_inv h
  have lock' : { s with schedule := ms }.LockOrder := ⟨lock.output, lock.locked, lock.stage⟩
  have up' : { s with schedule := ms }.BroughtUp := ⟨up.osc, up.pllSys, up.pllAux, up.dom, up.released⟩
  exact ⟨moved.controlled.progress progress,
    moved.broughtUp (pos.withSchedule ms) (lines.congr rfl rfl rfl) lock' progress up'⟩

/-! ### Immutability after Ready (46_bringup_sequencer.md R195) -/

section
variable {b s t : State}

/-- Nothing is left for the environment to do to the configuration: the crystal is stable, both PLLs locked, every
peripheral out of reset and no switch pending. -/
structure State.Quiet (s : State) : Prop where
  stable : s.osc.stable = true
  locked : ∀ p, (s.pll p).lock = true
  done : s.rstDone = s.params.periphAll
  switched : ∀ d : Dom, d.twoStage = true → (s.dom d).main = (s.dom d).selected

/-- The bring-up leaves the block quiet: a pending switch would have its mux sequence in flight, and Ready has none. -/
theorem State.quiet_of_ready (ready : s.fsm = .ready) (pos : s.Positioned) (owned : s.SwitchOwned) (up : s.BroughtUp) :
    s.Quiet where
  stable := ((Osc.ready_iff _).mp (up.osc (.inl ready))).2
  locked p := by
    cases p with
    | sys => exact ((Pll.ready_iff _).mp (up.pllSys (.inl ready))).1
    | aux => exact ((Pll.ready_iff _).mp (up.pllAux (.inl ready))).1
  done := (up.released (.inl ready)).2
  switched d two := by
    by_contra pending
    rcases owned d two pending with failed | ⟨busy, switching⟩
    · simp [ready] at failed
    · have spares : s.work.domain ≠ some d := Work.worksOn_dom.not.mp (pos.spares busy (.inl ready))
      unfold State.switching at switching
      split at switching
      case h_1 work => exact spares (by rw [work, ← switching.1]; rfl)
      case h_2 work => exact spares (by rw [work, ← switching.1]; rfl)
      case h_3 => exact switching

/-- The configuration of `t` is that of `s`: the reset, oscillator, PLL and clock registers, OSC_FREQ and the
parameters. -/
structure State.SameConfig (s t : State) : Prop where
  params : t.params = s.params
  oscFreq : t.oscFreq = s.oscFreq
  clocks : s.sameClocks t

theorem State.SameConfig.refl (s : State) : s.SameConfig s := ⟨rfl, rfl, rfl, rfl, rfl, rfl, rfl⟩

theorem State.SameConfig.trans (h : b.SameConfig s) (g : s.SameConfig t) : b.SameConfig t := by
  obtain ⟨osc, plls, doms, rstCtrl, rstDone⟩ := h.clocks
  obtain ⟨osc', plls', doms', rstCtrl', rstDone'⟩ := g.clocks
  exact ⟨g.params.trans h.params, g.oscFreq.trans h.oscFreq, osc'.trans osc, plls'.trans plls, doms'.trans doms,
    rstCtrl'.trans rstCtrl, rstDone'.trans rstDone⟩

/-- The moves to come are no part of the configuration. -/
theorem State.SameConfig.withSchedule (h : b.SameConfig s) (ms : List Move) :
    b.SameConfig { s with schedule := ms } := ⟨h.params, h.oscFreq, h.clocks⟩

theorem State.Quiet.congr (quiet : s.Quiet) (same : s.SameConfig t) : t.Quiet := by
  obtain ⟨osc, plls, doms, _, rstDone⟩ := same.clocks
  exact ⟨osc ▸ quiet.stable, fun p => State.pll_congr plls p ▸ quiet.locked p, by rw [rstDone, same.params, quiet.done],
    fun d two => State.dom_congr doms d ▸ quiet.switched d two⟩

/-- The environment changes no configuration of a quiet block. -/
theorem Drifted.sameConfig (drift : Drifted s t) (quiet : s.Quiet) : s.SameConfig t := by
  cases drift with
  | nothing => exact .refl s
  | resetDone p can => simp [State.canResetDone_of_allDone quiet.done] at can
  | oscStable can => simp [State.canOscStable, quiet.stable] at can
  | pllLock p can => simp [State.canPllLock, quiet.locked p] at can
  | muxFlip d can =>
    simp only [State.canMuxFlip, Bool.and_eq_true, bne_iff_ne] at can
    obtain ⟨⟨⟨two, pending⟩, _⟩, _⟩ := can
    exact absurd (quiet.switched d two) pending
  | fcDone => exact ⟨rfl, rfl, rfl, rfl, rfl, rfl, rfl⟩

/-- A step of a command is a rejection at its state gate, or its gate has let it pass. -/
theorem Executed.rejected_or_passed {i : Instr} (h : Executed s i t) :
    (∃ r opc unit, t = s.reject r opc unit) ∨ s.gatePassed i := by
  cases h with
  | locked | rejected => exact .inl ⟨_, _, _, rfl⟩
  | nop _ gate | cont _ gate | subRejected _ gate => exact .inr gate
  | finished _ _ later | timedOut _ _ later | subFinished _ later | subTimedOut _ later =>
    exact .inr (State.gatePassed_of_later later)
  | bringupEnd atEnd => exact .inr fun due => by simp [State.atGate, isBringup, atEnd] at due

/-- A command past its gate in Ready is one that Ready accepts. -/
theorem State.pastGate.accepted {i : Instr} (h : s.pastGate i) (ready : s.fsm = .ready) : acceptedInReady i = true := by
  unfold State.pastGate at h
  split at h
  · exact absurd (h.symm.trans ready) (fsmDuring_ne_ready _)
  · rcases h.2 with reset | ⟨_, accepted⟩
    · simp [ready] at reset
    · exact accepted

/-- A command in Ready changes no configuration: it is rejected, or it is NOP or a measurement (30_encoding.md R87). -/
theorem Executed.ready_sameConfig {i : Instr} (h : Executed s i t) (at_ : s.atInstr i) (ready : s.fsm = .ready) :
    s.SameConfig t := by
  rcases h.rejected_or_passed with ⟨_, _, _, rfl⟩ | gate
  · exact ⟨rfl, rfl, rfl, rfl, rfl, rfl, rfl⟩
  rcases acceptedInReady_iff.mp ((at_.pastGate gate).accepted ready) with rfl | ⟨src, rfl⟩
  · rw [h.nop_eq]
    exact ⟨rfl, rfl, rfl, rfl, rfl, rfl, rfl⟩
  · refine ⟨h.sameSurroundings.1, h.own_regRead (r := .oscFreq) rfl (by simp [commonRegs]) fun o op kind => ?_,
      h.fcMeasure_sameClocks⟩
    obtain ⟨src', khz, work⟩ := work_of_fcMeasure op kind
    simp [work, Work.writes, Work.results]

/-- No move changes the configuration of a quiet block that is Ready or Failed. -/
theorem Moved.sameConfig (h : Moved s t) (pos : s.Positioned) (fsm : s.fsm = .ready ∨ s.fsm = .failed)
    (quiet : s.Quiet) : s.SameConfig t := by
  cases h with
  | idle => exact .refl s
  | illegal => exact ⟨rfl, rfl, rfl, rfl, rfl, rfl, rfl⟩
  | executed busy alive good run => exact run.ready_sameConfig (pos.atInstr busy good) (fsm.resolve_right alive)
  | env e => exact (envStep_inv s e).sameConfig quiet
  | host a =>
    obtain ⟨u, reply, served, e⟩ := hostAccess_inv s a
    rw [e]
    cases served <;> exact ⟨rfl, rfl, rfl, rfl, rfl, rfl, rfl⟩

/-- After Ready, with the configuration of `b`: what every step keeps (46_bringup_sequencer.md R195). -/
structure State.Frozen (b s : State) : Prop where
  positioned : s.Positioned
  fsm : s.fsm = .ready ∨ s.fsm = .failed
  same : b.SameConfig s

theorem step_frozen (quiet : b.Quiet) (frozen : b.Frozen s) (h : step s = .next t) : b.Frozen t := by
  obtain ⟨_, failedStays, readyStays⟩ := fsmLinear s t frozen.positioned h
  obtain ⟨ms, moved⟩ := step_inv h
  have before : b.SameConfig { s with schedule := ms } := frozen.same.withSchedule ms
  have same := moved.sameConfig (frozen.positioned.withSchedule ms) frozen.fsm (quiet.congr before)
  exact ⟨positionKept s t frozen.positioned h, frozen.fsm.elim readyStays fun failed => .inr (failedStays failed),
    before.trans same⟩

end

/-- Settles O55: a Ready block is quiet, and no step changes the configuration of a quiet block. -/
theorem readyImmutable : Obligations.ReadyImmutable := by
  intro n s t ready pos owned up h
  have quiet := State.quiet_of_ready ready pos owned up
  have frozen : s.Frozen t :=
    run_keeps (P := s.Frozen) (fun _ _ => step_frozen quiet) n ⟨pos, .inl ready, .refl s⟩ h
  obtain ⟨osc, plls, doms, rstCtrl, rstDone⟩ := frozen.same.clocks
  exact ⟨frozen.fsm, rstCtrl, rstDone, osc, frozen.same.oscFreq, plls, doms⟩

end Sys2Proof.Machine
end

section
/-! The default bring-up (O60): one run, from reset to Ready, evaluated. -/

namespace Sys2Proof.Machine

/-- The outcome is a next state with the property `P`. -/
def nextSatisfies (o : Host.Outcome State Fault Refusal) (P : State → Prop) [DecidablePred P] : Bool :=
  match o with
  | .next t => decide (P t)
  | .fault _ => false
  | .refused _ => false

theorem nextSatisfies_iff {o : Host.Outcome State Fault Refusal} {P : State → Prop} [DecidablePred P] :
    nextSatisfies o P = true ↔ ∃ t, o = .next t ∧ P t := by
  cases o <;> simp [nextSatisfies]

/-- Settles O60: the 163 moves are evaluated, and the state they end in is checked. -/
theorem defaultBringupReachesReady : Obligations.DefaultBringupReachesReady :=
  nextSatisfies_iff.mp (by decide +kernel)

end Sys2Proof.Machine
end

section
/-! The exceptions (60_exceptions.md): the busy-wait (O10), the precise endings of a command (O28, O29), and the Failed
state (O30). -/

namespace Sys2Proof.Machine

/-! ### The busy-wait (60_exceptions.md R203) -/

/-- A one-bit mask is not empty. -/
theorem twoPow_ne_zero {k : Nat} (small : k < 32) : BitVec.twoPow 32 k ≠ 0#32 := fun e => by
  simpa [small] using congrArg (BitVec.getLsbD · k) e

/-- A one-bit mask reads itself exactly if the bit is set. -/
theorem and_twoPow_eq_twoPow_iff (v : Word) {k : Nat} (small : k < 32) :
    v &&& BitVec.twoPow 32 k = BitVec.twoPow 32 k ↔ v.getLsbD k = true := by
  rw [BitVec.and_twoPow]
  cases v.getLsbD k <;> simp [(twoPow_ne_zero small).symm]

/-- A one-bit mask reads 0 exactly if the bit is clear. -/
theorem and_twoPow_eq_zero_iff (v : Word) {k : Nat} (small : k < 32) :
    v &&& BitVec.twoPow 32 k = 0#32 ↔ v.getLsbD k = false := by
  rw [BitVec.and_twoPow]
  cases v.getLsbD k <;> simp [twoPow_ne_zero small]

section
variable {s t : State} {i : Instr} {o : Op} {id : WaitId} {r : Reg} {pred : Word → Bool} {k : BitVec 8}

/-- The Wait that `awaited` names is the one at the position, and its predicate is the comparison under the mask. -/
theorem State.waitAt_of_awaited {mask val : Word} (waits : s.awaited = some (id, r, mask, val)) :
    ∃ pred next, waitAt s.work s.step.toNat = some (id, r, pred, next) ∧
      ∀ v, pred v = true ↔ v &&& mask = val := by
  have whole : ∀ q v : Word, (v == q) = true ↔ v &&& 0xFFFFFFFF#32 = q := fun q v => by
    rw [beq_iff_eq, show 0xFFFFFFFF#32 = BitVec.allOnes 32 from rfl, BitVec.and_allOnes]
  unfold State.awaited at waits
  split at waits
  case h_1 work at_ =>
    cases waits
    rw [work, at_]
    exact ⟨_, _, rfl, fun v => beq_iff_eq⟩
  case h_2 work at_ | h_3 work at_ =>
    cases waits
    rw [work, at_]
    exact ⟨_, _, rfl, fun v => (and_twoPow_eq_twoPow_iff v (k := 31) (by decide)).symm⟩
  case h_4 work at_ | h_5 work at_ =>
    cases waits
    rw [work, at_]
    exact ⟨_, _, rfl, whole _⟩
  case h_6 work at_ | h_7 work at_ =>
    split at waits <;> cases waits
    case isTrue two =>
    rw [work, at_]
    exact ⟨_, _, if_pos (by simp [two]), whole _⟩
  case h_8 work at_ =>
    cases waits
    rw [work, at_]
    refine ⟨_, _, rfl, fun v => ?_⟩
    rw [Bool.not_eq_true']
    exact (and_twoPow_eq_zero_iff v (k := 0) (by decide)).symm
  case h_9 work at_ =>
    cases waits
    rw [work, at_]
    exact ⟨_, _, rfl, fun v => (and_twoPow_eq_twoPow_iff v (k := 1) (by decide)).symm⟩
  case h_10 => cases waits

/-- The micro-operation at a Wait is its poll. -/
theorem workStep_of_waitAt {w : Work} {n : Nat} (at_ : waitAt w n = some (id, r, pred, k)) :
    workStep w n s = s.wait id r pred k := by
  cases w with
  | idle => cases at_
  | hold set => cases at_
  | release set => obtain ⟨rfl, rfl, rfl, rfl, rfl⟩ := waitAt_release at_; rfl
  | osc f delay => obtain ⟨rfl, rfl, rfl, rfl, rfl⟩ := waitAt_osc at_; rfl
  | pll p refdiv pd1 pd2 fbdiv vcoHz => obtain ⟨rfl, rfl, rfl, rfl, rfl⟩ := waitAt_pll at_; rfl
  | mux d main auxsrc stepped =>
    obtain ⟨rfl, rfl, ⟨rfl, rfl, rfl, rfl⟩ | ⟨rfl, rfl, rfl⟩⟩ := waitAt_mux at_ <;> rfl
  | div d main auxsrc src divisor old stepped settle left =>
    obtain ⟨two, rfl, rfl, ⟨rfl, rfl, rfl, rfl⟩ | ⟨rfl, rfl, rfl⟩⟩ := waitAt_div at_ <;> exact if_pos two
  | fc src refKhz =>
    obtain ⟨rfl, rfl, rfl, rfl, rfl⟩ | ⟨rfl, rfl, rfl, rfl, rfl⟩ := waitAt_fc at_ <;> rfl

/-- An operation in flight with hidden state of its own is past its first micro-operation. -/
theorem Op.inFlight.later (h : o.inFlight s) (busy : s.work ≠ .idle) : s.step ≠ 0#8 ∧ o.sameKind s.work = true := by
  rcases h with ⟨_, idle⟩ | ⟨later, _, latched⟩
  · exact absurd idle busy
  · exact ⟨later, Op.sameKind_of_latched latched⟩

theorem State.wait_satisfied (holds : pred (s.regRead r) = true) : s.wait id r pred k = .cont (s.waited id r k) :=
  if_pos holds

theorem State.wait_polled (fails : pred (s.regRead r) ≠ true)
    (more : s.waitLimit = 0#32 ∨ nextPoll s.pollcnt < s.waitLimit) : s.wait id r pred k = .cont s.polled := by
  rw [State.wait, if_neg fails, if_neg]
  rintro ⟨limit, spent⟩
  exact more.elim limit (BitVec.not_lt.mpr spent)

theorem State.wait_timeout (fails : pred (s.regRead r) ≠ true) (limit : s.waitLimit ≠ 0#32)
    (spent : s.waitLimit ≤ nextPoll s.pollcnt) : s.wait id r pred k = .timeout id (s.regRead r) := by
  rw [State.wait, if_neg fails, if_pos ⟨limit, spent⟩]

/-- ERR.STAGE of a Fatal: 0 outside BRINGUP (60_exceptions.md R202). -/
def State.fatalStage (s : State) (i : Instr) : BitVec 4 := if isBringup i then s.stage else 0#4

/-- A later micro-operation that goes on is the command's step, its own or BRINGUP's. -/
theorem exec_of_cont (op : s.opOf i = some o) (later : s.step ≠ 0#8) (run : runOp o s = .cont t) :
    exec i s = .next t := by
  cases own : isBringup i with
  | false => rw [exec_own own op (.inl later), run, State.commandStep]
  | true =>
    obtain ⟨v, rfl⟩ := isBringup_iff.mp own
    rw [exec_bringup_at op (.inr (.inl later)), run, State.bringupStep]

/-- A Wait that gives up is fatal for its command, at the stage of its kind of command. -/
theorem exec_of_timeout {v : Word} (op : s.opOf i = some o) (later : s.step ≠ 0#8) (run : runOp o s = .timeout id v) :
    exec i s = .next (s.fatal ⟨id.cause, v⟩ (s.fatalStage i) o.opcode o.unit) := by
  cases own : isBringup i with
  | false => rw [exec_own own op (.inl later), run, State.commandStep, State.fatalStage, own]; rfl
  | true =>
    obtain ⟨v, rfl⟩ := isBringup_iff.mp own
    rw [exec_bringup_at op (.inr (.inl later)), run, State.bringupStep]
    rfl

end

/-- Settles O10: the operation's micro-operation at its Wait is one poll, and the command passes its outcome on. -/
theorem waitPolls : Obligations.WaitPolls := by
  intro i s o id r mask val op flight waits count
  obtain ⟨pred, next, at_, reads⟩ := State.waitAt_of_awaited waits
  obtain ⟨later, kind⟩ := flight.later fun idle => by simp [idle, waitAt] at at_
  have run : runOp o s = s.wait id r pred next := by
    rw [runOp_later later, if_pos kind, workStep_of_waitAt at_]
  have onward : next = s.step + 1#8 := by rw [waitAt_next at_]; simp [BitVec.ofNat_add]
  refine ⟨fun holds => ?satisfied, fun fails more => ?unsatisfied, fun fails limit spent => ?spent,
    by cases id <;> rfl, by cases id <;> rfl⟩
  case satisfied =>
    rw [exec_of_cont op later (run.trans (State.wait_satisfied ((reads _).mpr holds))), onward]
    rfl
  case unsatisfied =>
    exact exec_of_cont op later (run.trans (State.wait_polled (mt (reads _).mp fails) more))
  case spent =>
    rw [exec_of_timeout op later (run.trans (State.wait_timeout (mt (reads _).mp fails) limit spent))]
    cases i <;> rfl

/-! ### The causes of the two errors (60_exceptions.md R200) -/

theorem WaitId.cause_ne_none (id : WaitId) : id.cause ≠ .none := by cases id <;> simp [WaitId.cause]

section
variable {s : State} {d : Dom} {main : Path} {auxsrc : BitVec 3} {r : Rejection}

theorem twoStageOperandRejection_cause (h : twoStageOperandRejection main auxsrc = some r) : r.cause ≠ .none := by
  unfold twoStageOperandRejection at h
  split_ifs at h
  cases h
  simp

theorem State.twoStageReadyRejection_cause (h : s.twoStageReadyRejection d main auxsrc = some r) :
    r.cause ≠ .none := by
  unfold State.twoStageReadyRejection at h
  split_ifs at h <;> cases h <;> simp

theorem divOperandRejection_cause (h : divOperandRejection d main auxsrc = some r) : r.cause ≠ .none := by
  unfold divOperandRejection at h
  split_ifs at h
  · exact twoStageOperandRejection_cause h
  · cases h
    simp

theorem divisorRejection_cause {src : Nat} {dst : Word} (h : divisorRejection src dst = some r) :
    r.cause ≠ .none := by
  unfold divisorRejection at h
  split_ifs at h <;> cases h <;> simp

theorem State.divReadyRejection_cause (h : s.divReadyRejection d main auxsrc = some r) : r.cause ≠ .none := by
  unfold State.divReadyRejection at h
  split_ifs at h
  · exact State.twoStageReadyRejection_cause h
  · cases h
    simp

theorem State.pllRejection_cause {p : PllId} {refdiv : BitVec 6} {pd1 pd2 : BitVec 3} {targetVco : Word}
    (h : s.pllRejection p refdiv pd1 pd2 targetVco = some r) : r.cause ≠ .none := by
  unfold State.pllRejection at h
  split_ifs at h <;> cases h <;> simp

/-- Every validation that rejects names its cause. -/
theorem startOp_cause {o : Op} (h : startOp o s = .reject r) : r.cause ≠ .none := by
  cases o with
  | hold set =>
    simp only [startOp, startHold] at h
    split_ifs at h
    cases h
    simp
  | release set =>
    simp only [startOp, startRelease] at h
    split_ifs at h <;> cases h <;> simp
  | osc f =>
    simp only [startOp, startOsc] at h
    split_ifs at h <;> cases h <;> simp
  | pll p refdiv pd1 pd2 targetVco =>
    simp only [startOp, startPll] at h
    split at h <;> cases h
    case h_1 rejects => exact State.pllRejection_cause rejects
  | mux dom main auxsrc =>
    simp only [startOp, startMux] at h
    split at h
    · cases h
      simp
    split at h
    case h_1 rejects => cases h; exact twoStageOperandRejection_cause rejects
    split at h <;> cases h
    case h_1 rejects => exact State.twoStageReadyRejection_cause rejects
  | div dom main auxsrc src dst =>
    simp only [startOp, startDiv] at h
    split at h
    · cases h
      simp
    split at h
    case h_1 rejects => cases h; exact divOperandRejection_cause rejects
    split at h
    case h_1 rejects => cases h; exact divisorRejection_cause rejects
    split at h <;> cases h
    case h_1 rejects => exact State.divReadyRejection_cause rejects
  | fc src refKhz =>
    simp only [startOp, startFc] at h
    split_ifs at h <;> cases h <;> simp

theorem runOp_reject_cause {o : Op} (h : runOp o s = .reject r) : r.cause ≠ .none :=
  startOp_cause ((runOp_start (runOp_reject h)).symm.trans h)

end

/-! ### A rejection is precise (60_exceptions.md R201, R206) -/

section
variable {s t : State} {i : Instr}

/-- Sub-operation 0 of BRINGUP holds PERIPH_ALL, which its validation never rejects. -/
theorem runOp_first_ne_reject {v : Bool} {o : Op} {r : Rejection} (sub : s.sub = 0#8)
    (op : s.planOp v s.sub.toNat = some o) : runOp o s ≠ .reject r := by
  intro rejects
  have start := runOp_reject rejects
  rw [sub] at op
  cases op
  rw [runOp_start start, startOp, startHold, if_neg (by simp [BitVec.and_not_self])] at rejects
  cases rejects

/-- A command whose first micro-operation ends with ERROR is rejected. -/
theorem Executed.rejected_of_error (h : Executed s i t) (sub : s.sub = 0#8) (start : s.step = 0#8)
    (clear : s.error = false) (error : t.error = true) :
    ∃ r opc unit, r.cause ≠ .none ∧ t = s.reject r opc unit := by
  have noError : t.error ≠ s.error := by simp [clear, error]
  cases h with
  | nop => exact absurd rfl noError
  | locked => exact ⟨_, _, _, by simp, rfl⟩
  | cont op gate run =>
    rcases runOp_cont run with ⟨_, _, _, rfl⟩ | ⟨later, _⟩
    · exact absurd rfl noError
    · exact absurd start later
  | rejected own op gate _ run => exact ⟨_, _, _, runOp_reject_cause run, rfl⟩
  | finished own op later | timedOut own op later | subFinished op later | subTimedOut op later =>
    exact absurd start later
  | subRejected op gate _ run => exact absurd run (runOp_first_ne_reject sub op)
  | bringupEnd => exact absurd rfl noError

/-- The issue of a command changes CMD, and what it clears (30_encoding.md R86). -/
theorem State.regRead_issue {r : Reg} (w : Word) (notCmd : r ≠ .cmd) (outside : r ∉ commonRegs) :
    (s.issue w).regRead r = s.regRead r := by
  cases r <;> first | rfl | exact absurd rfl notCmd | exact absurd (by simp [commonRegs]) outside

end

/-- Settles O28: the command's only ending with ERROR is the rejection, and an idle engine's POLLCNT is 0 already. -/
theorem rejectKeepsState : Obligations.RejectKeepsState := by
  intro s t w i pos idle _ run error
  obtain ⟨j, opc, unit, cause, rfl⟩ := (exec_inv run).rejected_of_error rfl rfl rfl error
  refine ⟨rfl, rfl, rfl, rfl, rfl, rfl, rfl, rfl, cause, fun r notCmd notStatus notErr notErrsnap => ?_⟩
  by_cases poll : r = .pollcnt
  · obtain ⟨_, _, pollcnt, _⟩ := pos.idle idle
    subst poll
    exact pollcnt.symm
  · have outside : r ∉ commonRegs := by simp [commonRegs, notStatus, notErr, notErrsnap, poll]
    exact (State.regRead_reject _ _ _ outside).trans (State.regRead_issue w notCmd outside)

/-! ### A fatal ending is precise (60_exceptions.md R202, R206) -/

section
variable {s t : State} {i : Instr}

theorem State.nextSub_fsm_ne_failed (s : State) (k : Nat) : (s.nextSub k).fsm ≠ .failed := by
  unfold State.nextSub
  split
  · simp
  · exact fsmAfter_ne_failed k

/-- The one step of a command that leads to Failed is its fatal ending. -/
theorem Executed.fatal_of_failed (h : Executed s i t) (alive : s.fsm ≠ .failed) (failed : t.fsm = .failed) :
    ∃ r opc unit, r.cause ≠ .none ∧ t = s.fatal r (s.fatalStage i) opc unit := by
  have moved : t.fsm ≠ s.fsm := fun same => alive (same.symm.trans failed)
  cases h with
  | nop | locked | rejected => exact absurd rfl moved
  | cont op gate run =>
    rcases runOp_cont run with ⟨_, _, _, rfl⟩ | ⟨_, _, ran⟩
    · exact absurd rfl moved
    · exact absurd ran.fsm_eq moved
  | finished own op later kind ran => exact absurd (by simp [ran.finish_fsm]) moved
  | timedOut own => exact ⟨_, _, _, WaitId.cause_ne_none _, by rw [State.fatalStage, own]; rfl⟩
  | subFinished => exact absurd failed (State.nextSub_fsm_ne_failed _ _)
  | subRejected op gate start run => exact ⟨_, _, _, runOp_reject_cause run, rfl⟩
  | subTimedOut => exact ⟨_, _, _, WaitId.cause_ne_none _, rfl⟩
  | bringupEnd => exact absurd failed (by simp)

end

/-- Settles O29: the fatal ending's fields, and the registers outside the report. -/
theorem fatalKeepsState : Obligations.FatalKeepsState := by
  intro s t i alive run failed
  obtain ⟨j, opc, unit, cause, rfl⟩ := (exec_inv run).fatal_of_failed alive failed
  refine ⟨rfl, rfl, rfl, rfl, rfl, rfl, rfl, cause, ?bringup, ?own, ?frame⟩
  case bringup =>
    rintro ⟨v, rfl⟩
    rfl
  case own =>
    intro notBringup
    refine if_neg fun bringup => ?_
    obtain ⟨v, e⟩ := isBringup_iff.mp bringup
    exact notBringup v e
  case frame =>
    intro r notStatus notErr notErrsnap notPollcnt
    exact State.regRead_fatal _ _ _ _ (by simp [commonRegs, notStatus, notErr, notErrsnap, notPollcnt])

/-! ### Failed is final (60_exceptions.md R202, 10_state.md R14) -/

/-- The registers with bits the environment sets (10_state.md R51 to R55). -/
def Reg.ofEnvironment : Reg → Bool
  | .rstDone => true
  | .oscStatus => true
  | .pllCs _ => true
  | .clkSelected _ => true
  | .fcStatus => true
  | .fcResult => true
  | _ => false

/-- The state of the engine, its report and the write trace are in `t` as in `s`. -/
structure State.SameReport (s t : State) : Prop where
  fsm : t.fsm = s.fsm
  busy : t.busy = s.busy
  done : t.done = s.done
  error : t.error = s.error
  err : t.err = s.err
  errsnap : t.errsnap = s.errsnap
  sub : t.sub = s.sub
  step : t.step = s.step
  pollcnt : t.pollcnt = s.pollcnt
  trace : t.trace = s.trace

section
variable {s t : State} {r : Reg}

theorem Drifted.sameReport (drift : Drifted s t) : s.SameReport t := by
  cases drift <;> exact ⟨rfl, rfl, rfl, rfl, rfl, rfl, rfl, rfl, rfl, rfl⟩

/-- A flip of the main stage shows in CLK_SELECTED alone. -/
theorem State.regRead_flip (d : Dom) (p : Path) (notSelected : r ≠ .clkSelected d) :
    (s.setDom d { s.dom d with selected := p }).regRead r = s.regRead r := by
  cases r with
  | domValid => cases d <;> rfl
  | domHz e | domMeasKhz e | clkCtrl e | clkDiv e | clkSelected e =>
    by_cases other : e = d
    · subst other
      simp_all [State.regRead, Domain.ctrlWord, Domain.mainOf, Domain.enableOf]
    · simp [State.regRead, other]
  | _ => rfl

/-- The environment changes the registers of its own bits only. -/
theorem Drifted.regRead_eq (drift : Drifted s t) (engine : r.ofEnvironment = false) : t.regRead r = s.regRead r := by
  have apart : ∀ q : Reg, q.ofEnvironment = true → r ≠ q := fun q env e => by simp [e, env] at engine
  cases drift with
  | nothing => rfl
  | pllLock p =>
    exact State.regRead_setPll rfl rfl (fun e => absurd e (apart _ rfl)) (fun _ => rfl) (fun _ => rfl) fun _ => rfl
  | muxFlip d => exact State.regRead_flip d _ (apart _ rfl)
  | resetDone | oscStable | fcDone =>
    cases r with
    | rstDone | oscStatus | pllCs | clkSelected | fcStatus | fcResult => cases engine
    | _ => rfl

/-- What a move leaves of a Failed block: the engine stands still, so the environment has moved, or the host has, and
then OVERRUN and the port's answer are all it has changed (20_memory.md R64). -/
theorem Moved.of_failed (h : Moved s t) (failed : s.fsm = .failed) :
    Drifted s t ∨ ∃ overrun reply, t = { s with overrun := overrun, busReply := reply } := by
  cases h with
  | idle => exact .inl .nothing
  | illegal _ alive | executed _ alive => exact absurd failed alive
  | env e => exact .inl (envStep_inv s e)
  | host a =>
    obtain ⟨u, reply, served, answered⟩ := hostAccess_inv s a
    rw [answered]
    cases served with
    | nothing | dropped | cleared => exact .inr ⟨_, reply, rfl⟩
    | issued _ accepts | operand _ _ accepts | limit _ accepts =>
      exact absurd failed (s.acceptsWrites_iff.mp accepts).2

/-- A move of a Failed block keeps the report and every register but STATUS and the environment's. -/
theorem Moved.failed_keeps (h : Moved s t) (failed : s.fsm = .failed) :
    s.SameReport t ∧ ∀ r, r ≠ .status → r.ofEnvironment = false → t.regRead r = s.regRead r := by
  rcases h.of_failed failed with drift | ⟨overrun, reply, rfl⟩
  · exact ⟨drift.sameReport, fun r _ engine => drift.regRead_eq engine⟩
  · refine ⟨⟨rfl, rfl, rfl, rfl, rfl, rfl, rfl, rfl, rfl, rfl⟩, fun r notStatus _ => ?_⟩
    cases r <;> first | rfl | exact absurd rfl notStatus

/-- No register shows the moves to come. -/
theorem State.regRead_withSchedule (ms : List Move) : { s with schedule := ms }.regRead r = s.regRead r := by
  cases r <;> rfl

end

/-- Settles O30: the step is a move of a Failed block. -/
theorem failedFinal : Obligations.FailedFinal := by
  intro s t failed run
  obtain ⟨ms, moved⟩ := step_inv run
  obtain ⟨same, kept⟩ := moved.failed_keeps failed
  refine ⟨same.fsm.trans failed, same.busy, same.done, same.error, same.err, same.errsnap, same.sub, same.step,
    same.pollcnt, same.trace, fun r notStatus notRstDone notOsc notPll notSelected notFcStatus notFcResult => ?_⟩
  have engine : r.ofEnvironment = false := by
    cases r with
    | rstDone => exact absurd rfl notRstDone
    | oscStatus => exact absurd rfl notOsc
    | pllCs p => exact absurd rfl (notPll p)
    | clkSelected d => exact absurd rfl (notSelected d)
    | fcStatus => exact absurd rfl notFcStatus
    | fcResult => exact absurd rfl notFcResult
    | _ => rfl
  exact (kept r notStatus engine).trans (State.regRead_withSchedule ms)

end Sys2Proof.Machine
end
